-- ==== Sys2Proof/Word.lean ====
section
/-! DEFINITION. The two word types of the core (R10): bytes of 8 bits, addresses and the program counter of 16. -/

namespace Sys2Proof

/-- A byte: a register A, X, Y, S, a byte of memory, an operand byte (R10, R13). -/
abbrev Byte := BitVec 8

/-- A 16-bit word: the program counter or a bus address (R10, R13). -/
abbrev Word := BitVec 16

end Sys2Proof
end

