-- ==== Sys2Proof/Syntax.lean ====
section
/-! DEFINITION. The instructions as terms: the thirteen addressing modes with the operand bytes of their formats (R301),
and one constructor for each of the 56 operations (R2) and for the unmapped placeholder (R310). An opcode-table row is an
operation with one addressing mode; the mode is the operand's constructor (log 16). -/

namespace Sys2Proof

/-- The thirteen addressing modes (R1, R301). -/
inductive Mode
  | implied | accumulator | immediate
  | zeroPage | zeroPageX | zeroPageY
  | absolute | absoluteX | absoluteY
  | relative
  | indirect | indirectX | indirectY
  deriving DecidableEq, Repr

/-- An operand: an addressing mode with the operand bytes its format carries (R301, R302). -/
inductive Operand
  | implied
  | accumulator
  /-- `i`: the operand value. -/
  | immediate (i : Byte)
  /-- `z`: the zero-page address. -/
  | zeroPage (z : Byte)
  /-- `z`: the zero-page base. -/
  | zeroPageX (z : Byte)
  /-- `z`: the zero-page base. -/
  | zeroPageY (z : Byte)
  /-- `h:l`: the address. -/
  | absolute (hl : Word)
  /-- `h:l`: the base. -/
  | absoluteX (hl : Word)
  /-- `h:l`: the base. -/
  | absoluteY (hl : Word)
  /-- `d`: the displacement, a two's-complement byte. -/
  | relative (d : Byte)
  /-- `h:l`: the pointer. -/
  | indirect (hl : Word)
  /-- `z`: the zero-page pointer base. -/
  | indirectX (z : Byte)
  /-- `z`: the zero-page pointer. -/
  | indirectY (z : Byte)
  deriving DecidableEq, Repr

/-- The addressing mode of an operand. -/
def Operand.mode : Operand → Mode
  | .implied => .implied
  | .accumulator => .accumulator
  | .immediate _ => .immediate
  | .zeroPage _ => .zeroPage
  | .zeroPageX _ => .zeroPageX
  | .zeroPageY _ => .zeroPageY
  | .absolute _ => .absolute
  | .absoluteX _ => .absoluteX
  | .absoluteY _ => .absoluteY
  | .relative _ => .relative
  | .indirect _ => .indirect
  | .indirectX _ => .indirectX
  | .indirectY _ => .indirectY

/-- The 56 operations of R2, as the opcode table names them. -/
inductive Op
  | adc | and | asl | bcc | bcs | beq | bit | bmi | bne | bpl | brk | bvc | bvs | clc | cld | cli | clv | cmp | cpx | cpy
  | dec | dex | dey | eor | inc | inx | iny | jmp | jsr | lda | ldx | ldy | lsr | nop | ora | pha | php | pla | plp
  | rol | ror | rti | rts | sbc | sec | sed | sei | sta | stx | sty | tax | tay | tsx | txa | txs | tya
  deriving DecidableEq, Repr

/-- An instruction: one of the 56 operations with its operand where it has one, or the placeholder for an unmapped byte
(R303, R310). Operations whose one mode is Implied carry no operand. -/
inductive Instr
  -- arithmetic and logic (41_arith_logic.md)
  | adc (o : Operand) | sbc (o : Operand) | and (o : Operand) | eor (o : Operand) | ora (o : Operand)
  -- shift and rotate (42_shift_rotate.md)
  | asl (o : Operand) | lsr (o : Operand) | rol (o : Operand) | ror (o : Operand)
  -- increment and decrement (43_inc_dec.md)
  | inc (o : Operand) | dec (o : Operand) | inx | iny | dex | dey
  -- load and store (44_load_store.md)
  | lda (o : Operand) | ldx (o : Operand) | ldy (o : Operand)
  | sta (o : Operand) | stx (o : Operand) | sty (o : Operand)
  -- flag set and clear, compare (45_flags_compare.md)
  | clc | sec | cli | sei | cld | sed | clv
  | cmp (o : Operand) | cpx (o : Operand) | cpy (o : Operand)
  -- jump, call, return, branch (46_jump_branch.md)
  | jmp (o : Operand) | jsr (o : Operand) | rts | rti
  | bcc (o : Operand) | bcs (o : Operand) | beq (o : Operand) | bmi (o : Operand)
  | bne (o : Operand) | bpl (o : Operand) | bvc (o : Operand) | bvs (o : Operand)
  -- stack and register transfer (47_stack_transfer.md)
  | pha | php | pla | plp | tax | tay | tsx | txa | txs | tya
  -- miscellaneous and the placeholder (48_misc.md)
  | bit (o : Operand) | nop | brk
  /-- The placeholder for an unmapped opcode byte, which it carries (R310, R820). -/
  | unmapped (opcode : Byte)
  deriving DecidableEq, Repr

/-- The operation of an instruction; the placeholder has none (R303). -/
def Instr.op : Instr → Option Op
  | .adc _ => some .adc | .sbc _ => some .sbc | .and _ => some .and | .eor _ => some .eor | .ora _ => some .ora
  | .asl _ => some .asl | .lsr _ => some .lsr | .rol _ => some .rol | .ror _ => some .ror
  | .inc _ => some .inc | .dec _ => some .dec
  | .inx => some .inx | .iny => some .iny | .dex => some .dex | .dey => some .dey
  | .lda _ => some .lda | .ldx _ => some .ldx | .ldy _ => some .ldy
  | .sta _ => some .sta | .stx _ => some .stx | .sty _ => some .sty
  | .clc => some .clc | .sec => some .sec | .cli => some .cli | .sei => some .sei
  | .cld => some .cld | .sed => some .sed | .clv => some .clv
  | .cmp _ => some .cmp | .cpx _ => some .cpx | .cpy _ => some .cpy
  | .jmp _ => some .jmp | .jsr _ => some .jsr | .rts => some .rts | .rti => some .rti
  | .bcc _ => some .bcc | .bcs _ => some .bcs | .beq _ => some .beq | .bmi _ => some .bmi
  | .bne _ => some .bne | .bpl _ => some .bpl | .bvc _ => some .bvc | .bvs _ => some .bvs
  | .pha => some .pha | .php => some .php | .pla => some .pla | .plp => some .plp
  | .tax => some .tax | .tay => some .tay | .tsx => some .tsx
  | .txa => some .txa | .txs => some .txs | .tya => some .tya
  | .bit _ => some .bit | .nop => some .nop | .brk => some .brk
  | .unmapped _ => none

/-- The operand of an instruction; Implied where its constructor carries none. -/
def Instr.operand : Instr → Operand
  | .adc o | .sbc o | .and o | .eor o | .ora o => o
  | .asl o | .lsr o | .rol o | .ror o | .inc o | .dec o => o
  | .lda o | .ldx o | .ldy o | .sta o | .stx o | .sty o => o
  | .cmp o | .cpx o | .cpy o | .bit o => o
  | .jmp o | .jsr o => o
  | .bcc o | .bcs o | .beq o | .bmi o | .bne o | .bpl o | .bvc o | .bvs o => o
  | .inx | .iny | .dex | .dey | .clc | .sec | .cli | .sei | .cld | .sed | .clv | .rts | .rti => .implied
  | .pha | .php | .pla | .plp | .tax | .tay | .tsx | .txa | .txs | .tya | .nop | .brk => .implied
  | .unmapped _ => .implied

/-- The instruction of an operation and an operand; an operation without an operand drops it. -/
def Op.instr : Op → Operand → Instr
  | .adc, o => .adc o | .sbc, o => .sbc o | .and, o => .and o | .eor, o => .eor o | .ora, o => .ora o
  | .asl, o => .asl o | .lsr, o => .lsr o | .rol, o => .rol o | .ror, o => .ror o
  | .inc, o => .inc o | .dec, o => .dec o
  | .inx, _ => .inx | .iny, _ => .iny | .dex, _ => .dex | .dey, _ => .dey
  | .lda, o => .lda o | .ldx, o => .ldx o | .ldy, o => .ldy o
  | .sta, o => .sta o | .stx, o => .stx o | .sty, o => .sty o
  | .clc, _ => .clc | .sec, _ => .sec | .cli, _ => .cli | .sei, _ => .sei
  | .cld, _ => .cld | .sed, _ => .sed | .clv, _ => .clv
  | .cmp, o => .cmp o | .cpx, o => .cpx o | .cpy, o => .cpy o
  | .jmp, o => .jmp o | .jsr, o => .jsr o | .rts, _ => .rts | .rti, _ => .rti
  | .bcc, o => .bcc o | .bcs, o => .bcs o | .beq, o => .beq o | .bmi, o => .bmi o
  | .bne, o => .bne o | .bpl, o => .bpl o | .bvc, o => .bvc o | .bvs, o => .bvs o
  | .pha, _ => .pha | .php, _ => .php | .pla, _ => .pla | .plp, _ => .plp
  | .tax, _ => .tax | .tay, _ => .tay | .tsx, _ => .tsx
  | .txa, _ => .txa | .txs, _ => .txs | .tya, _ => .tya
  | .bit, o => .bit o | .nop, _ => .nop | .brk, _ => .brk

end Sys2Proof
end

