-- ==== Sys2Proof/WellFormed.lean ====
section
/-! DEFINITION. Which instruction terms are instructions of the core: each operation with the addressing modes its rule
lists under Operands (files 41 to 48; R401: the other pairs never occur), and the placeholder with an unmapped byte (R309). -/

namespace Sys2Proof

/-- The eight modes of R450, shared by ADC, SBC, AND, EOR, ORA, LDA and CMP (R451 to R454, R600, R658). -/
def aluModes : List Mode :=
  [.immediate, .zeroPage, .zeroPageX, .absolute, .absoluteX, .absoluteY, .indirectX, .indirectY]

/-- The modes of ASL, and of LSR, ROL and ROR as it (R501 to R504). -/
def shiftModes : List Mode := [.accumulator, .zeroPage, .zeroPageX, .absolute, .absoluteX]

/-- The modes of INC and DEC (R550, R551). -/
def incDecModes : List Mode := [.zeroPage, .zeroPageX, .absolute, .absoluteX]

/-- The 105 unmapped opcode bytes, as R309 lists them. -/
def unmappedBytes : List Byte :=
  [0x02, 0x03, 0x04, 0x07, 0x0B, 0x0C, 0x0F, 0x12, 0x13, 0x14, 0x17, 0x1A, 0x1B, 0x1C, 0x1F] ++
  [0x22, 0x23, 0x27, 0x2B, 0x2F, 0x32, 0x33, 0x34, 0x37, 0x3A, 0x3B, 0x3C, 0x3F] ++
  [0x42, 0x43, 0x44, 0x47, 0x4B, 0x4F, 0x52, 0x53, 0x54, 0x57, 0x5A, 0x5B, 0x5C, 0x5F] ++
  [0x62, 0x63, 0x64, 0x67, 0x6B, 0x6F, 0x72, 0x73, 0x74, 0x77, 0x7A, 0x7B, 0x7C, 0x7F] ++
  [0x80, 0x82, 0x83, 0x87, 0x89, 0x8B, 0x8F, 0x92, 0x93, 0x97, 0x9B, 0x9C, 0x9E, 0x9F] ++
  [0xA3, 0xA7, 0xAB, 0xAF, 0xB2, 0xB3, 0xB7, 0xBB, 0xBF] ++
  [0xC2, 0xC3, 0xC7, 0xCB, 0xCF, 0xD2, 0xD3, 0xD4, 0xD7, 0xDA, 0xDB, 0xDC, 0xDF] ++
  [0xE2, 0xE3, 0xE7, 0xEB, 0xEF, 0xF2, 0xF3, 0xF4, 0xF7, 0xFA, 0xFB, 0xFC, 0xFF]

/-- Whether a term is an instruction of the core. -/
def Instr.wellFormed : Instr → Bool
  | .adc o | .sbc o | .and o | .eor o | .ora o | .lda o | .cmp o => aluModes.contains o.mode
  | .asl o | .lsr o | .rol o | .ror o => shiftModes.contains o.mode
  | .inc o | .dec o => incDecModes.contains o.mode
  | .ldx o => [Mode.immediate, .zeroPage, .zeroPageY, .absolute, .absoluteY].contains o.mode
  | .ldy o => [Mode.immediate, .zeroPage, .zeroPageX, .absolute, .absoluteX].contains o.mode
  | .sta o =>
    [Mode.zeroPage, .zeroPageX, .absolute, .absoluteX, .absoluteY, .indirectX, .indirectY].contains o.mode
  | .stx o => [Mode.zeroPage, .zeroPageY, .absolute].contains o.mode
  | .sty o => [Mode.zeroPage, .zeroPageX, .absolute].contains o.mode
  | .cpx o | .cpy o => [Mode.immediate, .zeroPage, .absolute].contains o.mode
  | .bit o => [Mode.zeroPage, .absolute].contains o.mode
  | .jmp o => [Mode.absolute, .indirect].contains o.mode
  | .jsr o => [Mode.absolute].contains o.mode
  | .bcc o | .bcs o | .beq o | .bmi o | .bne o | .bpl o | .bvc o | .bvs o => [Mode.relative].contains o.mode
  | .inx | .iny | .dex | .dey | .clc | .sec | .cli | .sei | .cld | .sed | .clv | .rts | .rti => true
  | .pha | .php | .pla | .plp | .tax | .tay | .tsx | .txa | .txs | .tya | .nop | .brk => true
  | .unmapped b => unmappedBytes.contains b

end Sys2Proof
end

