-- ==== Sys2Proof/Decode.lean ====
section
/-! DEFINITION. The decoder (R300 to R310) and the encoder, over one opcode table (R304, R305). Decoding is total on bytes:
every opcode byte is an instruction or the placeholder (R303), and it rejects, by name, only a list that ends inside an
instruction. -/

namespace Sys2Proof

/-- `hi:lo`, two bytes as a word (R14). -/
def wordOf (lo hi : Byte) : Word := hi ++ lo

/-- The low byte of a word, `w[7:0]`. -/
def lowByte (w : Word) : Byte := w.setWidth 8

/-- The high byte of a word, `w[15:8]`. -/
def highByte (w : Word) : Byte := (w >>> 8).setWidth 8

/-- One row of the opcode table: opcode byte, operation, addressing mode, base cycle count (R305). -/
structure Row where
  opcode : Byte
  op : Op
  mode : Mode
  cycles : Nat
  deriving DecidableEq, Repr

/-- The rows of 41_arith_logic.md. -/
def arithRows : List Row :=
  [⟨0x6D, .adc, .absolute, 4⟩, ⟨0x7D, .adc, .absoluteX, 4⟩, ⟨0x79, .adc, .absoluteY, 4⟩, ⟨0x69, .adc, .immediate, 2⟩,
   ⟨0x61, .adc, .indirectX, 6⟩, ⟨0x71, .adc, .indirectY, 5⟩, ⟨0x65, .adc, .zeroPage, 3⟩, ⟨0x75, .adc, .zeroPageX, 4⟩,
   ⟨0x2D, .and, .absolute, 4⟩, ⟨0x3D, .and, .absoluteX, 4⟩, ⟨0x39, .and, .absoluteY, 4⟩, ⟨0x29, .and, .immediate, 2⟩,
   ⟨0x21, .and, .indirectX, 6⟩, ⟨0x31, .and, .indirectY, 5⟩, ⟨0x25, .and, .zeroPage, 3⟩, ⟨0x35, .and, .zeroPageX, 4⟩,
   ⟨0x4D, .eor, .absolute, 4⟩, ⟨0x5D, .eor, .absoluteX, 4⟩, ⟨0x59, .eor, .absoluteY, 4⟩, ⟨0x49, .eor, .immediate, 2⟩,
   ⟨0x41, .eor, .indirectX, 6⟩, ⟨0x51, .eor, .indirectY, 5⟩, ⟨0x45, .eor, .zeroPage, 3⟩, ⟨0x55, .eor, .zeroPageX, 4⟩,
   ⟨0x0D, .ora, .absolute, 4⟩, ⟨0x1D, .ora, .absoluteX, 4⟩, ⟨0x19, .ora, .absoluteY, 4⟩, ⟨0x09, .ora, .immediate, 2⟩,
   ⟨0x01, .ora, .indirectX, 6⟩, ⟨0x11, .ora, .indirectY, 5⟩, ⟨0x05, .ora, .zeroPage, 3⟩, ⟨0x15, .ora, .zeroPageX, 4⟩,
   ⟨0xED, .sbc, .absolute, 4⟩, ⟨0xFD, .sbc, .absoluteX, 4⟩, ⟨0xF9, .sbc, .absoluteY, 4⟩, ⟨0xE9, .sbc, .immediate, 2⟩,
   ⟨0xE1, .sbc, .indirectX, 6⟩, ⟨0xF1, .sbc, .indirectY, 5⟩, ⟨0xE5, .sbc, .zeroPage, 3⟩, ⟨0xF5, .sbc, .zeroPageX, 4⟩]

/-- The rows of 42_shift_rotate.md. -/
def shiftRows : List Row :=
  [⟨0x0E, .asl, .absolute, 6⟩, ⟨0x1E, .asl, .absoluteX, 7⟩, ⟨0x0A, .asl, .accumulator, 2⟩, ⟨0x06, .asl, .zeroPage, 5⟩,
   ⟨0x16, .asl, .zeroPageX, 6⟩,
   ⟨0x4E, .lsr, .absolute, 6⟩, ⟨0x5E, .lsr, .absoluteX, 7⟩, ⟨0x4A, .lsr, .accumulator, 2⟩, ⟨0x46, .lsr, .zeroPage, 5⟩,
   ⟨0x56, .lsr, .zeroPageX, 6⟩,
   ⟨0x2E, .rol, .absolute, 6⟩, ⟨0x3E, .rol, .absoluteX, 7⟩, ⟨0x2A, .rol, .accumulator, 2⟩, ⟨0x26, .rol, .zeroPage, 5⟩,
   ⟨0x36, .rol, .zeroPageX, 6⟩,
   ⟨0x6E, .ror, .absolute, 6⟩, ⟨0x7E, .ror, .absoluteX, 7⟩, ⟨0x6A, .ror, .accumulator, 2⟩, ⟨0x66, .ror, .zeroPage, 5⟩,
   ⟨0x76, .ror, .zeroPageX, 6⟩]

/-- The rows of 43_inc_dec.md. -/
def incDecRows : List Row :=
  [⟨0xCE, .dec, .absolute, 6⟩, ⟨0xDE, .dec, .absoluteX, 7⟩, ⟨0xC6, .dec, .zeroPage, 5⟩, ⟨0xD6, .dec, .zeroPageX, 6⟩,
   ⟨0xCA, .dex, .implied, 2⟩, ⟨0x88, .dey, .implied, 2⟩,
   ⟨0xEE, .inc, .absolute, 6⟩, ⟨0xFE, .inc, .absoluteX, 7⟩, ⟨0xE6, .inc, .zeroPage, 5⟩, ⟨0xF6, .inc, .zeroPageX, 6⟩,
   ⟨0xE8, .inx, .implied, 2⟩, ⟨0xC8, .iny, .implied, 2⟩]

/-- The rows of 44_load_store.md. -/
def loadStoreRows : List Row :=
  [⟨0xAD, .lda, .absolute, 4⟩, ⟨0xBD, .lda, .absoluteX, 4⟩, ⟨0xB9, .lda, .absoluteY, 4⟩, ⟨0xA9, .lda, .immediate, 2⟩,
   ⟨0xA1, .lda, .indirectX, 6⟩, ⟨0xB1, .lda, .indirectY, 5⟩, ⟨0xA5, .lda, .zeroPage, 3⟩, ⟨0xB5, .lda, .zeroPageX, 4⟩,
   ⟨0xAE, .ldx, .absolute, 4⟩, ⟨0xBE, .ldx, .absoluteY, 4⟩, ⟨0xA2, .ldx, .immediate, 2⟩, ⟨0xA6, .ldx, .zeroPage, 3⟩,
   ⟨0xB6, .ldx, .zeroPageY, 4⟩,
   ⟨0xAC, .ldy, .absolute, 4⟩, ⟨0xBC, .ldy, .absoluteX, 4⟩, ⟨0xA0, .ldy, .immediate, 2⟩, ⟨0xA4, .ldy, .zeroPage, 3⟩,
   ⟨0xB4, .ldy, .zeroPageX, 4⟩,
   ⟨0x8D, .sta, .absolute, 4⟩, ⟨0x9D, .sta, .absoluteX, 5⟩, ⟨0x99, .sta, .absoluteY, 5⟩, ⟨0x81, .sta, .indirectX, 6⟩,
   ⟨0x91, .sta, .indirectY, 6⟩, ⟨0x85, .sta, .zeroPage, 3⟩, ⟨0x95, .sta, .zeroPageX, 4⟩,
   ⟨0x8E, .stx, .absolute, 4⟩, ⟨0x86, .stx, .zeroPage, 3⟩, ⟨0x96, .stx, .zeroPageY, 4⟩,
   ⟨0x8C, .sty, .absolute, 4⟩, ⟨0x84, .sty, .zeroPage, 3⟩, ⟨0x94, .sty, .zeroPageX, 4⟩]

/-- The rows of 45_flags_compare.md. -/
def flagCompareRows : List Row :=
  [⟨0x18, .clc, .implied, 2⟩, ⟨0xD8, .cld, .implied, 2⟩, ⟨0x58, .cli, .implied, 2⟩, ⟨0xB8, .clv, .implied, 2⟩,
   ⟨0xCD, .cmp, .absolute, 4⟩, ⟨0xDD, .cmp, .absoluteX, 4⟩, ⟨0xD9, .cmp, .absoluteY, 4⟩, ⟨0xC9, .cmp, .immediate, 2⟩,
   ⟨0xC1, .cmp, .indirectX, 6⟩, ⟨0xD1, .cmp, .indirectY, 5⟩, ⟨0xC5, .cmp, .zeroPage, 3⟩, ⟨0xD5, .cmp, .zeroPageX, 4⟩,
   ⟨0xEC, .cpx, .absolute, 4⟩, ⟨0xE0, .cpx, .immediate, 2⟩, ⟨0xE4, .cpx, .zeroPage, 3⟩,
   ⟨0xCC, .cpy, .absolute, 4⟩, ⟨0xC0, .cpy, .immediate, 2⟩, ⟨0xC4, .cpy, .zeroPage, 3⟩,
   ⟨0x38, .sec, .implied, 2⟩, ⟨0xF8, .sed, .implied, 2⟩, ⟨0x78, .sei, .implied, 2⟩]

/-- The rows of 46_jump_branch.md. -/
def jumpBranchRows : List Row :=
  [⟨0x90, .bcc, .relative, 2⟩, ⟨0xB0, .bcs, .relative, 2⟩, ⟨0xF0, .beq, .relative, 2⟩, ⟨0x30, .bmi, .relative, 2⟩,
   ⟨0xD0, .bne, .relative, 2⟩, ⟨0x10, .bpl, .relative, 2⟩, ⟨0x50, .bvc, .relative, 2⟩, ⟨0x70, .bvs, .relative, 2⟩,
   ⟨0x4C, .jmp, .absolute, 3⟩, ⟨0x6C, .jmp, .indirect, 5⟩,
   ⟨0x20, .jsr, .absolute, 6⟩, ⟨0x40, .rti, .implied, 6⟩, ⟨0x60, .rts, .implied, 6⟩]

/-- The rows of 47_stack_transfer.md. -/
def stackTransferRows : List Row :=
  [⟨0x48, .pha, .implied, 3⟩, ⟨0x08, .php, .implied, 3⟩, ⟨0x68, .pla, .implied, 4⟩, ⟨0x28, .plp, .implied, 4⟩,
   ⟨0xAA, .tax, .implied, 2⟩, ⟨0xA8, .tay, .implied, 2⟩, ⟨0xBA, .tsx, .implied, 2⟩, ⟨0x8A, .txa, .implied, 2⟩,
   ⟨0x9A, .txs, .implied, 2⟩, ⟨0x98, .tya, .implied, 2⟩]

/-- The rows of 48_misc.md. -/
def miscRows : List Row :=
  [⟨0x2C, .bit, .absolute, 4⟩, ⟨0x24, .bit, .zeroPage, 3⟩,
   ⟨0x00, .brk, .implied, 7⟩, ⟨0xEA, .nop, .implied, 2⟩]

/-- The 151 rows of R305, in the order of the spec's files. The bytes and the counts are the spec's D2 and D3
(general knowledge there): PRESUMED (log 10). -/
def opcodeTable : List Row :=
  arithRows ++ shiftRows ++ incDecRows ++ loadStoreRows ++
  flagCompareRows ++ jumpBranchRows ++ stackTransferRows ++ miscRows

/-- The row of an opcode byte, if it is mapped (R303, R304). -/
def rowOfByte (b : Byte) : Option Row := opcodeTable.find? fun r => r.opcode == b

/-- The row of an operation in a mode, if the pair exists (R307). -/
def rowOf (op : Op) (m : Mode) : Option Row := opcodeTable.find? fun r => r.op == op && r.mode == m

/-- The opcode-table row of an instruction; the placeholder has none. -/
def Instr.row (i : Instr) : Option Row :=
  match i.op with
  | some op => rowOf op i.operand.mode
  | none => none

/-- `base_cycles` (R305). A term without a row has none, and no meaning runs it. -/
def Instr.baseCycles (i : Instr) : Nat :=
  match i.row with
  | some r => r.cycles
  | none => 0

/-- How many operand bytes a mode's format carries (R301, R416). -/
def Mode.operandBytes : Mode → Nat
  | .implied | .accumulator => 0
  | .immediate | .zeroPage | .zeroPageX | .zeroPageY | .relative | .indirectX | .indirectY => 1
  | .absolute | .absoluteX | .absoluteY | .indirect => 2

/-- The operand of a mode from the bytes behind the opcode, as many as its format carries (R301, R302). -/
def Mode.operand : Mode → Byte → Byte → Operand
  | .implied, _, _ => .implied
  | .accumulator, _, _ => .accumulator
  | .immediate, b, _ => .immediate b
  | .zeroPage, b, _ => .zeroPage b
  | .zeroPageX, b, _ => .zeroPageX b
  | .zeroPageY, b, _ => .zeroPageY b
  | .absolute, l, h => .absolute (wordOf l h)
  | .absoluteX, l, h => .absoluteX (wordOf l h)
  | .absoluteY, l, h => .absoluteY (wordOf l h)
  | .relative, b, _ => .relative b
  | .indirect, l, h => .indirect (wordOf l h)
  | .indirectX, b, _ => .indirectX b
  | .indirectY, b, _ => .indirectY b

/-- How many operand bytes follow an opcode byte: the opcode byte alone tells (R308); none follow an unmapped one (R820). -/
def operandCount (opcode : Byte) : Nat :=
  match rowOfByte opcode with
  | some r => r.mode.operandBytes
  | none => 0

/-- The instruction of an opcode byte and the two bytes behind it, of which it uses as many as its mode carries
(R303; an unmapped byte gives the placeholder, R310). -/
def decodeBytes (opcode b1 b2 : Byte) : Instr :=
  match rowOfByte opcode with
  | some r => r.op.instr (r.mode.operand b1 b2)
  | none => .unmapped opcode

/-- Why a list of bytes is no instruction: it ends too early. -/
inductive DecodeError
  /-- No byte at all. -/
  | noBytes
  /-- The operand bytes of this opcode are missing. -/
  | truncated (opcode : Byte)
  deriving DecidableEq, Repr

/-- The first instruction of a list of bytes, and the bytes behind it. -/
def decode : List Byte → Except DecodeError (Instr × List Byte)
  | [] => .error .noBytes
  | opcode :: rest =>
    match operandCount opcode, rest with
    | 0, rest => .ok (decodeBytes opcode 0 0, rest)
    | 1, b1 :: rest => .ok (decodeBytes opcode b1 0, rest)
    | 2, b1 :: b2 :: rest => .ok (decodeBytes opcode b1 b2, rest)
    | _, _ => .error (.truncated opcode)

/-- The operand bytes of an operand, low byte first (R301, R302). -/
def Operand.bytes : Operand → List Byte
  | .implied | .accumulator => []
  | .immediate b | .zeroPage b | .zeroPageX b | .zeroPageY b | .relative b | .indirectX b | .indirectY b => [b]
  | .absolute w | .absoluteX w | .absoluteY w | .indirect w => [lowByte w, highByte w]

/-- The bytes of a well-formed instruction: its opcode, then its operand bytes. BRK's padding byte is no part of them, since
it is skipped and not read (R802). A term that is no instruction has no bytes. -/
def encode (i : Instr) : List Byte :=
  match i with
  | .unmapped b => [b]
  | i =>
    match i.row with
    | some r => r.opcode :: i.operand.bytes
    | none => []

/-- The byte of `w` numbered `k` from the least significant one. -/
def byteOfNat (w k : Nat) : Byte := BitVec.ofNat 8 (w >>> (8 * k))

/-- The instruction the decoder reads from an opcode-table word of `nbits` bits, its bytes laid out first byte lowest and
followed by bytes of zeros. -/
def decodeTableWord (nbits w : Nat) : Option Instr :=
  let v := w % 2 ^ nbits
  match decode [byteOfNat v 0, byteOfNat v 1, byteOfNat v 2] with
  | .ok (i, _) => some i
  | .error _ => none

end Sys2Proof
end

