-- ==== Sys2Proof/Config.lean ====
section
/-! DEFINITION. What the spec leaves to a parameter of the core or to its environment: the unmapped-byte policy and the
answers of the bus. Both are opaque, so no claim can rest on a value of theirs. -/

namespace Sys2Proof

/-- The two policies that R820 offers for an unmapped opcode byte; which one holds is open (D4). -/
inductive UnmappedPolicy
  /-- PC stays behind the byte; one cycle. -/
  | skip
  /-- PC goes back to the byte; no cycle. -/
  | hold
  deriving DecidableEq, Repr, Inhabited

/-- `UNMAPPED_POLICY` of R11 and R820: OPEN, so a constant without a body.
DESIGN CHOICE, safe: a claim holds under both policies (log 6). -/
opaque Config.unmappedPolicy : UnmappedPolicy

/-- One bus access of the core (R201): the address, the byte moved, and the debug flag it was made with. -/
inductive Access
  | read (address : Word) (value : Byte) (debug : Bool)
  | write (address : Word) (value : Byte) (debug : Bool)
  deriving DecidableEq, Repr

/-- What the world outside the core has seen of one transaction: its bus accesses in order (R216), and the cycle count it
returned, which the picture unit is given (R322, R916). -/
structure Transaction where
  accesses : List Access
  cycles : Nat
  deriving DecidableEq, Repr

/-- The bus as an oracle (R203, D15, 93 I4, I8): the byte that answers a read of an address, after the transactions that are
over, oldest first, and the accesses already made in this one. It may depend on all of them, every read and write among
them, and no law ties its answers together. DESIGN CHOICE, safe for claims about one run (log 4). -/
opaque Config.busAnswer : (past : List Transaction) → (sofar : List Access) → (address : Word) → Byte

end Sys2Proof
end

