-- ==== Sys2Proof/Machine/State.lean ====
section
/-! DEFINITION. The state of the core (R100), of the memory the bus gives it (R200), and of the caller's requests (R900), with
the outputs of the last transaction (D1); the reasons a step can stop; the state at construction and after RESET (R117).
All of it is plain data. -/

namespace Sys2Proof.Machine

/-- The six stored flags of the status register P (R106). Bits 4 and 5 are not stored (D7). -/
structure Status where
  /-- Negative, bit 7 (R111). -/
  n : Bool
  /-- Overflow, bit 6 (R111). -/
  v : Bool
  /-- Decimal, bit 3 (R110). -/
  d : Bool
  /-- Interrupt-disable, bit 2 (R109). -/
  i : Bool
  /-- Zero, bit 1 (R108). -/
  z : Bool
  /-- Carry, bit 0 (R107). -/
  c : Bool
  deriving DecidableEq, Repr

/-- What the caller can present at a boundary: the closed set of R901 (BRK as a request is refused, R908). -/
inductive Interrupt
  | reset | nmi | irq | brk
  deriving DecidableEq, Repr

/-- Memory: (address, byte) pairs, addresses strictly rising, no entry equal to what an unlisted address reads as. -/
abbrev Memory := List Host.Cell

/-- A range of addresses. -/
structure Region where
  base : Nat
  size : Nat
  deriving DecidableEq, Repr

/-- The diagnostic event of a step that goes on (R908): the unmapped byte and its address. -/
inductive Event
  | unmapped (opcode : Byte) (pc0 : Word)
  deriving DecidableEq, Repr

/-- The state of the model. -/
structure State where
  /-- `PC`, the program counter (R101). -/
  pc : Word
  /-- `A`, the accumulator (R102). -/
  a : Byte
  /-- `X`, the first index register (R103). -/
  x : Byte
  /-- `Y`, the second index register (R103). -/
  y : Byte
  /-- `S`, the stack pointer, an offset into page 1 (R104). -/
  sp : Byte
  /-- `P`, the stored flags (R106). -/
  p : Status
  /-- `reset_done`, the hidden bit (R115). -/
  resetDone : Bool
  /-- The bytes of the addresses in `plain` (R200). -/
  mem : Memory
  /-- The addresses at which the bus is taken to behave as memory: the premise that R203 asks a claim to state. The bus is an
  oracle at every other address. The model's own field, log 1. -/
  plain : List Region
  /-- The transactions that are over, oldest first: what the oracle's answers may depend on. The model's own field, log 4. -/
  past : List Transaction
  /-- What the caller presents at this boundary and the next ones, one entry each (R900, 93 I6). The model's own field,
  no latch of the core (R116): log 8. -/
  requests : List (Option Interrupt)
  /-- The bus accesses of the last transaction, in order (R216). An output: log 9. -/
  accesses : List Access
  /-- The cycle count the last transaction returned (R322). An output: log 9. -/
  cycles : Nat
  /-- The event of the last transaction, if any (R908). An output: log 9. -/
  event : Option Event
  deriving DecidableEq, Repr

/-- The events of R908 that end a transaction without a state change; a model treats them as faults (R909). -/
inductive Fault
  /-- A step, an NMI or an IRQ while `reset_done = 0` (R321, R902, R903). Raised by `step` and `dispatchInterrupt`.
  Safe: the model stops where the spec lets nothing happen (log 7). -/
  | notReset
  /-- BRK presented as a request (R900, R908). Raised by `dispatchInterrupt`. Safe, as `notReset` (log 7). -/
  | badRequest
  deriving DecidableEq, Repr

/-- Why a term of `Instr` has no meaning. -/
inductive Refusal
  /-- An instruction without a meaning yet. Raised by `exec` alone. Safe: nothing is claimed of it. -/
  | notModelled (mnemonic : String)
  /-- A term that is no instruction: an operation with a mode it does not have (R401), or the placeholder with a mapped
  byte (R309). Raised by every meaning; the decoder gives no such term. Safe: log 13. -/
  | illFormed
  deriving DecidableEq, Repr

/-- The outcome of an instruction, a dispatch or a step. -/
abbrev Result := Host.Outcome State Fault Refusal

/-- The flags at construction: all clear (R117). -/
def Status.clear : Status := { n := false, v := false, d := false, i := false, z := false, c := false }

/-- The machine at construction: "zero-initialized", RESET not yet done (R117, R1000). Nothing is known of the bus but the two
bytes of the reset vector, so that PC after RESET is a number: DESIGN CHOICE, log 3. -/
def State.construction : State where
  pc := 0x0000
  a := 0x00
  x := 0x00
  y := 0x00
  sp := 0x00
  p := Status.clear
  resetDone := false
  mem := []
  plain := [⟨0xFFFC, 2⟩]
  past := []
  requests := []
  accesses := []
  cycles := 0
  event := none

/-- The machine right after the RESET dispatch that follows construction (R117, R910), with nothing in memory: PC is the word
at 0xFFFC/0xFFFD, every other register as at construction, and the outputs are those of the dispatch. How a program comes
to run from here: log 5. -/
def State.reset : State :=
  { State.construction with
    pc := 0x0000
    resetDone := true
    accesses := [.read 0xFFFC 0x00 false, .read 0xFFFD 0x00 false]
    cycles := 7 }

end Sys2Proof.Machine
end

