-- ==== Sys2Proof/Machine/Flags.lean ====
section
/-! DEFINITION. Every computation on the status flags: byte images of P (R112, R113), N and Z of a result (R14), and the
results of the arithmetic, shift, compare and bit-test rules with the flags they leave. -/

namespace Sys2Proof.Machine

/-- A flag at its place in a byte. -/
def flagAt (b : Bool) (k : Nat) : Byte := (if b then 1 else 0) <<< k

/-- `P_image(b)` for the Break value `b` (R112). -/
def pImage (b : Bool) (p : Status) : Byte :=
  flagAt p.n 7 ||| flagAt p.v 6 ||| flagAt true 5 ||| flagAt b 4 |||
  flagAt p.d 3 ||| flagAt p.i 2 ||| flagAt p.z 1 ||| flagAt p.c 0

/-- `P_load(v)`: bits 5 and 4 of the byte are ignored (R113). -/
def pLoad (v : Byte) : Status where
  n := v.getLsbD 7
  v := v.getLsbD 6
  d := v.getLsbD 3
  i := v.getLsbD 2
  z := v.getLsbD 1
  c := v.getLsbD 0

/-- `SetNZ(v)` (R14). -/
def setNZ (r : Byte) (p : Status) : Status := { p with z := r == 0, n := r.getLsbD 7 }

/-- The sum of A, an operand and C, with the flags it leaves: the pseudocode of R450. D is not read (R456). -/
def addWithCarry (a m : Byte) (p : Status) : Byte × Status :=
  let sum : BitVec 9 := a.setWidth 9 + m.setWidth 9 + (if p.c then 1 else 0)
  let r : Byte := sum.setWidth 8
  (r, setNZ r { p with c := sum.getLsbD 8, v := ((~~~(a ^^^ m)) &&& (a ^^^ r)).getLsbD 7 })

/-- The flags of `Compare(reg, m)` (R657). -/
def compareFlags (reg m : Byte) (p : Status) : Status :=
  { p with c := decide (m.toNat ≤ reg.toNat), z := reg == m, n := (reg - m).getLsbD 7 }

/-- The function of ASL (R501). -/
def shiftLeft (v : Byte) (p : Status) : Byte × Status :=
  let r := v <<< 1
  (r, setNZ r { p with c := v.getLsbD 7 })

/-- The function of LSR (R502). -/
def shiftRight (v : Byte) (p : Status) : Byte × Status :=
  let r := v >>> 1
  (r, setNZ r { p with c := v.getLsbD 0 })

/-- The function of ROL (R503). -/
def rotateLeft (v : Byte) (p : Status) : Byte × Status :=
  let r := (v <<< 1) ||| flagAt p.c 0
  (r, setNZ r { p with c := v.getLsbD 7 })

/-- The function of ROR (R504). -/
def rotateRight (v : Byte) (p : Status) : Byte × Status :=
  let r := (v >>> 1) ||| flagAt p.c 7
  (r, setNZ r { p with c := v.getLsbD 0 })

/-- The function of INC, INX and INY (R550, R552, R553). -/
def increment (v : Byte) (p : Status) : Byte × Status := (v + 1, setNZ (v + 1) p)

/-- The function of DEC, DEX and DEY (R551, R554, R555). -/
def decrement (v : Byte) (p : Status) : Byte × Status := (v - 1, setNZ (v - 1) p)

/-- The flags of BIT (R800). -/
def bitFlags (a m : Byte) (p : Status) : Status :=
  { p with z := a &&& m == 0, n := m.getLsbD 7, v := m.getLsbD 6 }

end Sys2Proof.Machine
end

