-- ==== Sys2Proof/Machine/Ops.lean ====
section
/-! DEFINITION. The operations every instruction is built from: bus accesses (R201 to R204), fetch (R14), the stack unit (R750,
R751), reading a vector, interrupt entry (R904) and return from interrupt (R703). -/

namespace Sys2Proof.Machine

/-- Whether an address lies in a region. -/
def Region.holds (r : Region) (a : Word) : Bool := decide (r.base ≤ a.toNat ∧ a.toNat < r.base + r.size)

/-- Whether the bus is taken to behave as memory at an address (R203, log 1). -/
def State.isPlain (s : State) (a : Word) : Bool := s.plain.any fun r => r.holds a

/-- The byte of plain memory at an address, none where the bus is an oracle: the model's read of one byte, with no bus access. -/
def State.peek (s : State) (a : Word) : Option Byte :=
  if s.isPlain a then some (Memory.read s.mem a.toNat) else none

/-- What a bus read at an address answers: the byte of plain memory, or a free value that may depend on everything the bus has
seen (R203). -/
def busValue (a : Word) (s : State) : Byte :=
  if s.isPlain a then Memory.read s.mem a.toNat else Config.busAnswer s.past s.accesses a

/-- `MemRead(a, 1)`: one bus read, never a debug read (R201). -/
def busRead (a : Word) (s : State) : Byte × State :=
  (busValue a s, { s with accesses := s.accesses ++ [.read a (busValue a s) false] })

/-- `MemWrite(a, 1, v)`: one bus write, never a debug write (R201). Outside `plain` it changes no plain memory (log 1). -/
def busWrite (a : Word) (v : Byte) (s : State) : State :=
  { s with
    mem := if s.isPlain a then Memory.write s.mem a.toNat v else s.mem
    accesses := s.accesses ++ [.write a v false] }

/-- `Fetch()`: the byte at PC, PC one further (R14, R101). -/
def fetchByte (s : State) : Byte × State :=
  let r := busRead s.pc s
  (r.1, { r.2 with pc := s.pc + 1 })

/-- The opcode byte at PC and the operand bytes its mode carries, decoded; PC behind them (R320, R308, R421). -/
def fetchInstr (s : State) : Instr × State :=
  let op := fetchByte s
  match operandCount op.1 with
  | 0 => (decodeBytes op.1 0 0, op.2)
  | 1 =>
    let b1 := fetchByte op.2
    (decodeBytes op.1 b1.1 0, b1.2)
  | _ =>
    let b1 := fetchByte op.2
    let b2 := fetchByte b1.2
    (decodeBytes op.1 b1.1 b2.1, b2.2)

/-- The address of a stack offset: `0x0100 | S`, in page 1 (R752). -/
def stackAddress (sp : Byte) : Word := 0x0100 ||| sp.setWidth 16

/-- `Push(v)` (R750). -/
def push (v : Byte) (s : State) : State :=
  { busWrite (stackAddress s.sp) v s with sp := s.sp - 1 }

/-- `Pop()` (R751). -/
def pop (s : State) : Byte × State :=
  busRead (stackAddress (s.sp + 1)) { s with sp := s.sp + 1 }

/-- The word at two addresses, the low byte read first (R204, R205). -/
def readWord (lowAt highAt : Word) (s : State) : Word × State :=
  let lo := busRead lowAt s
  let hi := busRead highAt lo.2
  (wordOf lo.1 hi.1, hi.2)

/-- PC from a vector pair, `vec` the address of its low byte (R901). -/
def loadVector (vec : Word) (s : State) : State :=
  let w := readWord vec (vec + 1) s
  { w.2 with pc := w.1 }

/-- The low-byte addresses of the three vectors (R901, R207). -/
def nmiVector : Word := 0xFFFA
def resetVector : Word := 0xFFFC
def irqBrkVector : Word := 0xFFFE

/-- `InterruptEntry(vec, b)`: the shared tail of NMI, IRQ and BRK (R904). PC high, PC low and the image of P with the Break
value `b` are pushed, I is set, then PC is loaded from the vector. -/
def interruptEntry (vec : Word) (b : Bool) (s : State) : State :=
  let s1 := push (highByte s.pc) s
  let s2 := push (lowByte s.pc) s1
  let s3 := push (pImage b s.p) s2
  loadVector vec { s3 with p := { s.p with i := true } }

/-- The return from an interrupt (R703, R912): P, PC low and PC high are popped; PC gets no +1. -/
def interruptReturn (s : State) : State :=
  let f := pop s
  let lo := pop f.2
  let hi := pop lo.2
  { hi.2 with p := pLoad f.1, pc := wordOf lo.1 hi.1 }

/-- The end of a meaning that may be asked to run a term that is no instruction (log 13). -/
def completed : Option State → Result
  | some t => .next t
  | none => .refused .illFormed

/-- An instruction without an operand: its base cycle count, then its effect (R320). -/
def runImplied (i : Instr) (effect : State → State) (s : State) : Result :=
  .next (effect { s with cycles := i.baseCycles })

end Sys2Proof.Machine
end

