-- ==== Sys2Proof/Machine/Operands.lean ====
section
/-! DEFINITION. The addressing-mode resolver (R400 to R416), operand access (R401), access classes and the page penalty (R420),
and the shapes that the instructions with an operand share: read, write, read-modify-write (R500), jump, branch (R704). -/

namespace Sys2Proof.Machine

/-- The operand descriptor `opd` of R400. -/
inductive Opd
  | noOperand
  | acc
  | imm (v : Byte)
  | mem (ea : Word)
  | rel (d : Byte)
  deriving DecidableEq, Repr

/-- What `Resolve` returns (R400): the descriptor, whether the index addition changed the high byte, and the state after
the pointer reads. -/
structure Resolved where
  opd : Opd
  crossed : Bool
  state : State
  deriving DecidableEq, Repr

/-- An address in page 0 (R302). -/
def zeroPageAddress (z : Byte) : Word := z.setWidth 16

/-- A page crossing: a change of the high byte (R415). -/
def pageCrossed (a b : Word) : Bool := highByte a != highByte b

/-- An indexed absolute operand: a full 16-bit addition, modulo 65536 (R409, R410, R217). -/
def indexed (base : Word) (index : Byte) (s : State) : Resolved :=
  let ea := base + index.setWidth 16
  ⟨.mem ea, pageCrossed base ea, s⟩

/-- The word a zero-page pointer points at; its high byte wraps in page 0 (R413, R414). -/
def readZeroPagePointer (z : Byte) (s : State) : Word × State :=
  readWord (zeroPageAddress z) (zeroPageAddress (z + 1)) s

/-- `Resolve` behind the operand fetch (R402 to R414). -/
def resolve : Operand → State → Resolved
  | .implied, s => ⟨.noOperand, false, s⟩
  | .accumulator, s => ⟨.acc, false, s⟩
  | .immediate v, s => ⟨.imm v, false, s⟩
  | .zeroPage z, s => ⟨.mem (zeroPageAddress z), false, s⟩
  | .zeroPageX z, s => ⟨.mem (zeroPageAddress (z + s.x)), false, s⟩
  | .zeroPageY z, s => ⟨.mem (zeroPageAddress (z + s.y)), false, s⟩
  | .absolute w, s => ⟨.mem w, false, s⟩
  | .absoluteX w, s => indexed w s.x s
  | .absoluteY w, s => indexed w s.y s
  | .relative d, s => ⟨.rel d, false, s⟩
  | .indirect w, s =>
    let q := readWord w (wordOf (lowByte w + 1) (highByte w)) s
    ⟨.mem q.1, false, q.2⟩
  | .indirectX z, s =>
    let q := readZeroPagePointer (z + s.x) s
    ⟨.mem q.1, false, q.2⟩
  | .indirectY z, s =>
    let q := readZeroPagePointer z s
    indexed q.1 s.y q.2

/-- `Load(opd)` (R401): none where R401 says that it never occurs. -/
def load : Opd → State → Option (Byte × State)
  | .imm v, s => some (v, s)
  | .acc, s => some (s.a, s)
  | .mem ea, s => some (busRead ea s)
  | .noOperand, _ | .rel _, _ => none

/-- `Store(opd, v)` (R401): none where R401 says that it never occurs. -/
def store : Opd → Byte → State → Option State
  | .acc, v, s => some { s with a := v }
  | .mem ea, v, s => some (busWrite ea v s)
  | .noOperand, _, _ | .imm _, _, _ | .rel _, _, _ => none

/-- The effective address of a memory operand. -/
def Opd.address : Opd → Option Word
  | .mem ea => some ea
  | .noOperand | .acc | .imm _ | .rel _ => none

/-- The displacement of a Relative operand. -/
def Opd.displacement : Opd → Option Byte
  | .rel d => some d
  | .noOperand | .acc | .imm _ | .mem _ => none

/-- The read-class instructions (R420). -/
def isReadClass : Instr → Bool
  | .adc _ | .and _ | .cmp _ | .eor _ | .lda _ | .ora _ | .sbc _ => true
  | .ldx _ | .ldy _ | .bit _ | .cpx _ | .cpy _ => true
  | .asl _ | .lsr _ | .rol _ | .ror _ | .inc _ | .dec _ | .inx | .iny | .dex | .dey => false
  | .sta _ | .stx _ | .sty _ | .clc | .sec | .cli | .sei | .cld | .sed | .clv => false
  | .jmp _ | .jsr _ | .rts | .rti => false
  | .bcc _ | .bcs _ | .beq _ | .bmi _ | .bne _ | .bpl _ | .bvc _ | .bvs _ => false
  | .pha | .php | .pla | .plp | .tax | .tay | .tsx | .txa | .txs | .tya | .nop | .brk | .unmapped _ => false

/-- The page-cross penalty: one cycle, for read-class instructions alone (R420). -/
def pagePenalty (i : Instr) (crossed : Bool) : Nat := if crossed && isReadClass i then 1 else 0

/-- The resolve part of a step and its cycle count so far (R320); none for a term that is no instruction. -/
def prepare (i : Instr) (o : Operand) (s : State) : Option (Opd × State) :=
  if i.wellFormed then
    let r := resolve o s
    some (r.opd, { r.state with cycles := i.baseCycles + pagePenalty i r.crossed })
  else none

/-- The operand value of a read-class instruction, and the state after its reads. -/
def readOperand (i : Instr) (o : Operand) (s : State) : Option (Byte × State) :=
  (prepare i o s).bind fun q => load q.1 q.2

/-- An instruction that reads its operand. -/
def runRead (i : Instr) (o : Operand) (effect : Byte → State → State) (s : State) : Result :=
  completed ((readOperand i o s).map fun q => effect q.1 q.2)

/-- An instruction that stores a register at its operand's address and does not read it (R603 to R605). -/
def runStore (i : Instr) (o : Operand) (v : Byte) (s : State) : Result :=
  completed ((prepare i o s).bind fun q => store q.1 v q.2)

/-- The read-modify-write template (R500): one load, the function with its flags, one store. -/
def runModify (i : Instr) (o : Operand) (f : Byte → Status → Byte × Status) (s : State) : Result :=
  completed <| (prepare i o s).bind fun q => (load q.1 q.2).bind fun l =>
    let r := f l.1 l.2.p
    (store q.1 r.1 l.2).map fun t => { t with p := r.2 }

/-- An instruction that goes to its operand's address (R700, R701). -/
def runJump (i : Instr) (o : Operand) (effect : Word → State → State) (s : State) : Result :=
  completed ((prepare i o s).bind fun q => q.1.address.map fun ea => effect ea q.2)

/-- The target of a branch: PC behind the instruction plus the signed displacement, modulo 65536 (R411). -/
def branchTarget (pcAfter : Word) (d : Byte) : Word := pcAfter + d.signExtend 16

/-- `Branch(cond, Rel(d))` (R704). -/
def takeBranch (cond : Bool) (d : Byte) (s : State) : State :=
  if cond then
    let target := branchTarget s.pc d
    { s with
      cycles := s.cycles + 1 + (if pageCrossed target s.pc then 1 else 0)
      pc := target }
  else s

/-- A conditional branch (R704). -/
def runBranch (i : Instr) (o : Operand) (cond : Bool) (s : State) : Result :=
  completed ((prepare i o s).bind fun q => q.1.displacement.map fun d => takeBranch cond d q.2)

end Sys2Proof.Machine
end

