-- ==== Sys2Proof/Machine/Arith.lean ====
section
/-! DEFINITION. Arithmetic and logic: ADC, SBC, AND, EOR, ORA (41_arith_logic.md). -/

namespace Sys2Proof.Machine

/-- A and the flags from a result and its flags. -/
def setA (r : Byte × Status) (s : State) : State := { s with a := r.1, p := r.2 }

/-- A logic operation of A and the operand: A and N, Z (R452 to R454). -/
def logicA (f : Byte → Byte → Byte) (m : Byte) (s : State) : State := setA (f s.a m, setNZ (f s.a m) s.p) s

/-- ADC: add with carry (R450). -/
def execAdc (o : Operand) (s : State) : Result :=
  runRead (.adc o) o (fun m t => setA (addWithCarry t.a m t.p) t) s

/-- SBC: ADC of the one's complement of the operand (R451). -/
def execSbc (o : Operand) (s : State) : Result :=
  runRead (.sbc o) o (fun m t => setA (addWithCarry t.a (~~~m) t.p) t) s

/-- AND (R452). -/
def execAnd (o : Operand) (s : State) : Result := runRead (.and o) o (logicA (· &&& ·)) s

/-- EOR (R453). -/
def execEor (o : Operand) (s : State) : Result := runRead (.eor o) o (logicA (· ^^^ ·)) s

/-- ORA (R454). -/
def execOra (o : Operand) (s : State) : Result := runRead (.ora o) o (logicA (· ||| ·)) s

end Sys2Proof.Machine
end

