-- ==== Sys2Proof/Machine/FlagCompare.lean ====
section
/-! DEFINITION. Flag set and clear, and compare: CLC, SEC, CLI, SEI, CLD, SED, CLV, CMP, CPX, CPY (45_flags_compare.md). -/

namespace Sys2Proof.Machine

/-- A change of the flags alone. -/
def onFlags (f : Status → Status) (s : State) : State := { s with p := f s.p }

/-- CLC: clear carry (R650). -/
def execClc (s : State) : Result := runImplied .clc (onFlags fun p => { p with c := false }) s

/-- SEC: set carry (R651). -/
def execSec (s : State) : Result := runImplied .sec (onFlags fun p => { p with c := true }) s

/-- CLI: clear interrupt-disable (R652). -/
def execCli (s : State) : Result := runImplied .cli (onFlags fun p => { p with i := false }) s

/-- SEI: set interrupt-disable (R653). -/
def execSei (s : State) : Result := runImplied .sei (onFlags fun p => { p with i := true }) s

/-- CLD: clear decimal (R654). -/
def execCld (s : State) : Result := runImplied .cld (onFlags fun p => { p with d := false }) s

/-- SED: set decimal (R655). -/
def execSed (s : State) : Result := runImplied .sed (onFlags fun p => { p with d := true }) s

/-- CLV: clear overflow (R656). -/
def execClv (s : State) : Result := runImplied .clv (onFlags fun p => { p with v := false }) s

/-- CMP: compare with A (R658). -/
def execCmp (o : Operand) (s : State) : Result := runRead (.cmp o) o (fun m t => onFlags (compareFlags t.a m) t) s

/-- CPX: compare with X (R659). -/
def execCpx (o : Operand) (s : State) : Result := runRead (.cpx o) o (fun m t => onFlags (compareFlags t.x m) t) s

/-- CPY: compare with Y (R660). -/
def execCpy (o : Operand) (s : State) : Result := runRead (.cpy o) o (fun m t => onFlags (compareFlags t.y m) t) s

end Sys2Proof.Machine
end

