-- ==== Sys2Proof/Machine/IncDec.lean ====
section
/-! DEFINITION. Increment and decrement: INC, DEC, INX, INY, DEX, DEY (43_inc_dec.md). -/

namespace Sys2Proof.Machine

/-- X and the flags from a result and its flags. -/
def setX (r : Byte × Status) (s : State) : State := { s with x := r.1, p := r.2 }

/-- Y and the flags from a result and its flags. -/
def setY (r : Byte × Status) (s : State) : State := { s with y := r.1, p := r.2 }

/-- INC: increment memory (R550). -/
def execInc (o : Operand) (s : State) : Result := runModify (.inc o) o increment s

/-- DEC: decrement memory (R551). -/
def execDec (o : Operand) (s : State) : Result := runModify (.dec o) o decrement s

/-- INX: increment X (R552). -/
def execInx (s : State) : Result := runImplied .inx (fun t => setX (increment t.x t.p) t) s

/-- INY: increment Y (R553). -/
def execIny (s : State) : Result := runImplied .iny (fun t => setY (increment t.y t.p) t) s

/-- DEX: decrement X (R554). -/
def execDex (s : State) : Result := runImplied .dex (fun t => setX (decrement t.x t.p) t) s

/-- DEY: decrement Y (R555). -/
def execDey (s : State) : Result := runImplied .dey (fun t => setY (decrement t.y t.p) t) s

end Sys2Proof.Machine
end

