-- ==== Sys2Proof/Machine/JumpBranch.lean ====
section
/-! DEFINITION. Jump, call, return and branch: JMP, JSR, RTS, RTI and the eight branches (46_jump_branch.md). On entry PC is
pc_after. -/

namespace Sys2Proof.Machine

/-- The call of JSR: the address of its last byte pushed, high byte first, then PC to the target (R701). -/
def callSubroutine (ea : Word) (s : State) : State :=
  let ret := s.pc - 1
  { push (lowByte ret) (push (highByte ret) s) with pc := ea }

/-- The return of RTS: the popped word, low byte first, plus 1 (R702). -/
def returnSubroutine (s : State) : State :=
  let lo := pop s
  let hi := pop lo.2
  { hi.2 with pc := wordOf lo.1 hi.1 + 1 }

/-- JMP: jump (R700). -/
def execJmp (o : Operand) (s : State) : Result := runJump (.jmp o) o (fun ea t => { t with pc := ea }) s

/-- JSR: jump to subroutine (R701). -/
def execJsr (o : Operand) (s : State) : Result := runJump (.jsr o) o callSubroutine s

/-- RTS: return from subroutine (R702). -/
def execRts (s : State) : Result := runImplied .rts returnSubroutine s

/-- RTI: return from interrupt (R703). -/
def execRti (s : State) : Result := runImplied .rti interruptReturn s

/-- BCC: branch if carry clear (R705). -/
def execBcc (o : Operand) (s : State) : Result := runBranch (.bcc o) o (!s.p.c) s

/-- BCS: branch if carry set (R706). -/
def execBcs (o : Operand) (s : State) : Result := runBranch (.bcs o) o s.p.c s

/-- BEQ: branch if Z set (R707). -/
def execBeq (o : Operand) (s : State) : Result := runBranch (.beq o) o s.p.z s

/-- BMI: branch if N set (R708). -/
def execBmi (o : Operand) (s : State) : Result := runBranch (.bmi o) o s.p.n s

/-- BNE: branch if Z clear (R709). -/
def execBne (o : Operand) (s : State) : Result := runBranch (.bne o) o (!s.p.z) s

/-- BPL: branch if N clear (R710). -/
def execBpl (o : Operand) (s : State) : Result := runBranch (.bpl o) o (!s.p.n) s

/-- BVC: branch if overflow clear (R711). -/
def execBvc (o : Operand) (s : State) : Result := runBranch (.bvc o) o (!s.p.v) s

/-- BVS: branch if overflow set (R712). -/
def execBvs (o : Operand) (s : State) : Result := runBranch (.bvs o) o s.p.v s

end Sys2Proof.Machine
end

