-- ==== Sys2Proof/Machine/LoadStore.lean ====
section
/-! DEFINITION. Load and store: LDA, LDX, LDY, STA, STX, STY (44_load_store.md). -/

namespace Sys2Proof.Machine

/-- LDA: load A (R600). -/
def execLda (o : Operand) (s : State) : Result := runRead (.lda o) o (fun m t => setA (m, setNZ m t.p) t) s

/-- LDX: load X (R601). -/
def execLdx (o : Operand) (s : State) : Result := runRead (.ldx o) o (fun m t => setX (m, setNZ m t.p) t) s

/-- LDY: load Y (R602). -/
def execLdy (o : Operand) (s : State) : Result := runRead (.ldy o) o (fun m t => setY (m, setNZ m t.p) t) s

/-- STA: store A (R603). -/
def execSta (o : Operand) (s : State) : Result := runStore (.sta o) o s.a s

/-- STX: store X (R604). -/
def execStx (o : Operand) (s : State) : Result := runStore (.stx o) o s.x s

/-- STY: store Y (R605). -/
def execSty (o : Operand) (s : State) : Result := runStore (.sty o) o s.y s

end Sys2Proof.Machine
end

