-- ==== Sys2Proof/Machine/Misc.lean ====
section
/-! DEFINITION. BIT, NOP, BRK and the unmapped placeholder (48_misc.md). -/

namespace Sys2Proof.Machine

/-- BIT: bit test (R800). -/
def execBit (o : Operand) (s : State) : Result := runRead (.bit o) o (fun m t => onFlags (bitFlags t.a m) t) s

/-- NOP: no operation (R801). -/
def execNop (s : State) : Result := runImplied .nop id s

/-- BRK: PC past the padding byte, which is not read, then the interrupt entry with Break 1 (R802). -/
def execBrk (s : State) : Result :=
  runImplied .brk (fun t => interruptEntry irqBrkVector true { t with pc := t.pc + 1 }) s

/-- PC after an unmapped byte at `pc0`, under the open policy (R820). -/
def unmappedPc (pc0 : Word) : Word :=
  match Config.unmappedPolicy with
  | .skip => pc0 + 1
  | .hold => pc0

/-- The cycle count of an unmapped byte, under the open policy (R820). -/
def unmappedCycles : Nat :=
  match Config.unmappedPolicy with
  | .skip => 1
  | .hold => 0

/-- The placeholder: `UnmappedStep(op, pc0)`, PC on entry behind the byte (R820). It runs, with the event in the state:
DESIGN CHOICE, log 6. -/
def execUnmapped (opcode : Byte) (s : State) : Result :=
  completed <|
    if (Instr.unmapped opcode).wellFormed then
      let pc0 := s.pc - 1
      some { s with pc := unmappedPc pc0, cycles := unmappedCycles, event := some (.unmapped opcode pc0) }
    else none

end Sys2Proof.Machine
end

