-- ==== Sys2Proof/Machine/Shift.lean ====
section
/-! DEFINITION. Shift and rotate: ASL, LSR, ROL, ROR on A or on memory (42_shift_rotate.md). -/

namespace Sys2Proof.Machine

/-- ASL: arithmetic shift left (R501). -/
def execAsl (o : Operand) (s : State) : Result := runModify (.asl o) o shiftLeft s

/-- LSR: logical shift right (R502). -/
def execLsr (o : Operand) (s : State) : Result := runModify (.lsr o) o shiftRight s

/-- ROL: rotate left through carry (R503). -/
def execRol (o : Operand) (s : State) : Result := runModify (.rol o) o rotateLeft s

/-- ROR: rotate right through carry (R504). -/
def execRor (o : Operand) (s : State) : Result := runModify (.ror o) o rotateRight s

end Sys2Proof.Machine
end

