-- ==== Sys2Proof/Machine/StackTransfer.lean ====
section
/-! DEFINITION. Push, pull and register transfer: PHA, PHP, PLA, PLP, TAX, TAY, TSX, TXA, TXS, TYA (47_stack_transfer.md). -/

namespace Sys2Proof.Machine

/-- The effect of PLA: A from the stack, N and Z from it. -/
def pullA (s : State) : State :=
  let r := pop s
  setA (r.1, setNZ r.1 s.p) r.2

/-- The effect of PLP: the flags from the stack. -/
def pullP (s : State) : State :=
  let r := pop s
  { r.2 with p := pLoad r.1 }

/-- PHA: push A (R753). -/
def execPha (s : State) : Result := runImplied .pha (fun t => push t.a t) s

/-- PHP: push status, Break bit 1 (R754). -/
def execPhp (s : State) : Result := runImplied .php (fun t => push (pImage true t.p) t) s

/-- PLA: pull A (R755). -/
def execPla (s : State) : Result := runImplied .pla pullA s

/-- PLP: pull status (R756). -/
def execPlp (s : State) : Result := runImplied .plp pullP s

/-- TAX: transfer A to X (R757). -/
def execTax (s : State) : Result := runImplied .tax (fun t => setX (t.a, setNZ t.a t.p) t) s

/-- TAY: transfer A to Y (R758). -/
def execTay (s : State) : Result := runImplied .tay (fun t => setY (t.a, setNZ t.a t.p) t) s

/-- TSX: transfer S to X (R759). -/
def execTsx (s : State) : Result := runImplied .tsx (fun t => setX (t.sp, setNZ t.sp t.p) t) s

/-- TXA: transfer X to A (R760). -/
def execTxa (s : State) : Result := runImplied .txa (fun t => setA (t.x, setNZ t.x t.p) t) s

/-- TXS: transfer X to S, no flag (R761). -/
def execTxs (s : State) : Result := runImplied .txs (fun t => { t with sp := t.x }) s

/-- TYA: transfer Y to A (R762). -/
def execTya (s : State) : Result := runImplied .tya (fun t => setA (t.y, setNZ t.y t.p) t) s

end Sys2Proof.Machine
end

