-- ==== Sys2Proof/Machine/Interrupts.lean ====
section
/-! DEFINITION. The second transaction of the core: `Dispatch(k)` for a request of the caller (60_exceptions.md R900 to R910),
and the start of either transaction. -/

namespace Sys2Proof.Machine

/-- `DISPATCH_CYCLES` (R11, R1012; the spec's D10, PRESUMED: log 11). -/
def dispatchCycles : Nat := 7

/-- A transaction starts: the last one is over, and it has made no access and raised no event yet (D1, logs 4 and 9). -/
def beginTransaction (s : State) : State :=
  { s with past := s.past ++ [⟨s.accesses, s.cycles⟩], accesses := [], event := none }

/-- `Dispatch(RESET)`: PC from its vector and `reset_done`, nothing else (R910). -/
def dispatchReset (s : State) : Result :=
  .next { loadVector resetVector s with resetDone := true, cycles := dispatchCycles }

/-- `Dispatch(NMI)`, taken whatever I (R902). -/
def dispatchNmi (s : State) : Result :=
  if s.resetDone then .next { interruptEntry nmiVector false s with cycles := dispatchCycles }
  else .fault .notReset

/-- `Dispatch(IRQ)`: suppressed and forgotten while I is set (R903). -/
def dispatchIrq (s : State) : Result :=
  if s.resetDone then
    if s.p.i then .next { s with cycles := 0 }
    else .next { interruptEntry irqBrkVector false s with cycles := dispatchCycles }
  else .fault .notReset

/-- `Dispatch(k)` (R900); BRK is refused as a request (R908). -/
def dispatchInterrupt (k : Interrupt) (s : State) : Result :=
  match k with
  | .reset => dispatchReset s
  | .nmi => dispatchNmi s
  | .irq => dispatchIrq s
  | .brk => .fault .badRequest

end Sys2Proof.Machine
end

