-- ==== Sys2Proof/Machine/Step.lean ====
section
/-! DEFINITION. One transaction of the core (D1): the caller's request at this boundary if there is one (R900), else one
instruction (R320). And the placing of an instruction where the next step fetches. -/

namespace Sys2Proof.Machine

/-- `Step()`: one instruction (R320), none before RESET (R321). It takes no request (D21). -/
def stepInstr (s : State) : Host.Outcome State Fault Refusal :=
  if s.resetDone then
    let f := fetchInstr (beginTransaction s)
    exec f.1 f.2
  else .fault .notReset

/-- The next transaction, as the caller drives the core (R917). An entry of `requests` is one boundary: its request, if it has
one, is dispatched and the entry is left without one, so that at most one is served at a boundary (R900); the step then
uses the entry up. DESIGN CHOICE, log 8. -/
def step (s : State) : Host.Outcome State Fault Refusal :=
  match s.requests with
  | some k :: rest => dispatchInterrupt k (beginTransaction { s with requests := none :: rest })
  | none :: rest => stepInstr { s with requests := rest }
  | [] => stepInstr s

/-- A byte of plain memory placed from outside, with no bus access (log 17). -/
def State.place (s : State) (a : Word) (v : Byte) : State :=
  { s with
    mem := Memory.write s.mem a.toNat v
    plain := ⟨a.toNat, 1⟩ :: s.plain }

/-- `s` with the instruction whose bits are `w` (as many as `nbits`, zeros above) stored at PC, and nothing between it and
the next step: RESET done and no request pending (log 17). -/
def State.withFetchWord (s : State) (nbits w : Nat) : State :=
  let v := w % 2 ^ nbits
  let t := ((s.place s.pc (byteOfNat v 0)).place (s.pc + 1) (byteOfNat v 1)).place (s.pc + 2) (byteOfNat v 2)
  { t with resetDone := true, requests := [] }

end Sys2Proof.Machine
end

