-- ==== Sys2Proof/Safety.lean ====
section
/-! DEFINITION. What counts as a run, in the terms of R1030 and R909: a run ends where the claim's `END_OF_RUN` holds, and a
run in which a transaction raises an event, or stops, is faulted and not ended. -/

namespace Sys2Proof.Safety

open Sys2Proof.Machine

/-- How a run of at most so many transactions comes out. -/
inductive RunResult
  /-- `END_OF_RUN` holds of this state, after so many steps. -/
  | ended (s : State) (steps : Nat)
  /-- A transaction raised `Unmapped`, `NotReset` or `BadRequest`, or was refused (R909). -/
  | faulted
  /-- The transactions allowed are used up. -/
  | unfinished (s : State)
  deriving DecidableEq, Repr

/-- Whether the last transaction raised no event. -/
def clean (s : State) : Bool := s.event.isNone

/-- Whether the next transaction is a step, which runs one instruction (R320), and not the dispatch of a request (R900). -/
def startsStep (s : State) : Bool :=
  match s.requests with
  | some _ :: _ => false
  | none :: _ => true
  | [] => true

/-- The number of steps done after the next transaction: a dispatch is no step (R1030, R17). -/
def countStep (s : State) (steps : Nat) : Nat := if startsStep s then steps + 1 else steps

/-- Run until `endOfRun`, a predicate on the state and the number of steps done (R1030, D17), for at most `fuel` more
transactions. It is asked before each transaction, a dispatch among them (log 18). -/
def runUntil (endOfRun : State → Nat → Bool) : (fuel steps : Nat) → State → RunResult
  | 0, steps, s => if endOfRun s steps then .ended s steps else .unfinished s
  | fuel + 1, steps, s =>
    if endOfRun s steps then .ended s steps
    else
      match step s with
      | .next t => if clean t then runUntil endOfRun fuel (countStep s steps) t else .faulted
      | .fault _ => .faulted
      | .refused _ => .faulted

end Sys2Proof.Safety
end

