-- ==== Sys2Proof/Certificates/Slice0/Obligations.lean ====
section
/-! DEFINITION. The statements about the model, each from the rules its docstring names. They speak of `exec`, `step` and
`dispatchInterrupt`, and say results as numbers where the rules do, so that they do not repeat the model's own definitions.
An operand's value is what `readOperand` gives, its address what `resolve` gives; statements of their own say what those are.
Where a statement lists the accesses of a transaction, that there are no others is the spec's D6 (R216, log 12). -/

namespace Sys2Proof.Claims

open Sys2Proof.Machine

/-- A flag as a number. -/
def bit (b : Bool) : Nat := if b then 1 else 0

/-- `SetNZ` as numbers (R14): Z from the result being 0, N from its bit 7. -/
def nz (r : Byte) (p : Status) : Status := { p with z := decide (r.toNat = 0), n := decide (128 ≤ r.toNat) }

/-- The byte of a number. -/
def byte (n : Nat) : Byte := BitVec.ofNat 8 n

/-- The address of a stack offset, as a number: 0x0100 and the offset (R752). -/
def page1 (sp : Byte) : Word := BitVec.ofNat 16 (256 + sp.toNat)

/-- The word of two bytes, as a number (R302). -/
def word (lo hi : Byte) : Word := BitVec.ofNat 16 (hi.toNat * 256 + lo.toNat)

/-- The high and the low byte of a word, as numbers. -/
def hi (w : Word) : Byte := byte (w.toNat / 256)
def lo (w : Word) : Byte := byte (w.toNat % 256)

/-- The operation has these addressing modes and no other, with these opcode bytes and base cycle counts (R305, and the
Operands and Encoding lines of files 41 to 48). The bytes and the counts are the spec's D2 and D3 (log 10), wherever a
statement below gives them. -/
def Encodes (mk : Operand → Instr) (rows : List (Mode × Byte × Nat)) : Prop :=
  ∀ o : Operand, ((mk o).wellFormed = true ↔ o.mode ∈ rows.map (·.1)) ∧
    ∀ r ∈ rows, o.mode = r.1 → encode (mk o) = r.2.1 :: o.bytes ∧ (mk o).baseCycles = r.2.2

/-- The same of an operation whose one mode is Implied: one byte. -/
def EncodesImplied (i : Instr) (opcode : Byte) (cycles : Nat) : Prop :=
  i.wellFormed = true ∧ encode i = [opcode] ∧ i.baseCycles = cycles

/-- Nothing differs but the outputs of the transaction. -/
def OnlyOutputs (s u : State) : Prop :=
  u = { s with accesses := u.accesses, cycles := u.cycles }

/-- The registers A, X, Y, S and the flags are the same. -/
def SameRegisters (s t : State) : Prop :=
  t.a = s.a ∧ t.x = s.x ∧ t.y = s.y ∧ t.sp = s.sp ∧ t.p = s.p

/-- `reset_done`, what is known of the bus, the caller's requests and the event are the same. -/
def SameSetting (s t : State) : Prop :=
  t.resetDone = s.resetDone ∧ t.plain = s.plain ∧ t.past = s.past ∧ t.requests = s.requests ∧ t.event = s.event

/-- Every byte of plain memory reads as before. -/
def SameMemory (s t : State) : Prop := ∀ a, t.peek a = s.peek a

/-- The bytes stored (at different addresses): every other byte of plain memory reads as before, and each of these reads as
stored where it is plain memory. -/
def BytesStored (s t : State) (l : List (Word × Byte)) : Prop :=
  (∀ a, a ∉ l.map (·.1) → t.peek a = s.peek a) ∧
    (Memory.wf s.mem = true → ∀ e ∈ l, s.isPlain e.1 = true → t.peek e.1 = some e.2)

/-- A read-class instruction completes: its operand is read, which changes outputs only, its cycles are the base count and
one more on a page crossing, and the state after it is `effect` of the operand value. -/
def RunsOnOperand (i : Instr) (s : State) (effect : Byte → State → State) : Prop :=
  ∃ m u, readOperand i i.operand s = some (m, u) ∧ OnlyOutputs s u ∧
    u.cycles = i.baseCycles + bit (resolve i.operand s).crossed ∧ exec i s = .next (effect m u)

/-- A store completes: one write of `v` at the operand's address after the accesses of the resolver, no read of it; nothing
else but outputs changes, and no crossing costs a cycle. -/
def StoresByte (i : Instr) (s : State) (v : Byte) : Prop :=
  ∃ ea t, (resolve i.operand s).opd.address = some ea ∧ exec i s = .next t ∧
    t.accesses = (resolve i.operand s).state.accesses ++ [.write ea v false] ∧
    BytesStored s t [(ea, v)] ∧ SameRegisters s t ∧ t.pc = s.pc ∧ SameSetting s t ∧ t.cycles = i.baseCycles

/-- A read-modify-write instruction completes (R500): on A it replaces A by `f` of it, with no access; on memory it reads its
address once and writes it once, after the accesses of the resolver; the flags are those of `f`; nothing else but outputs
changes, and no crossing costs a cycle. -/
def ModifiesByte (i : Instr) (s : State) (f : Byte → Byte × Status) : Prop :=
  (i.operand = .accumulator ∧
    exec i s = .next { s with a := (f s.a).1, p := (f s.a).2, cycles := i.baseCycles }) ∨
  ∃ ea t, (resolve i.operand s).opd.address = some ea ∧ exec i s = .next t ∧
    let v := busValue ea (resolve i.operand s).state
    t.accesses = (resolve i.operand s).state.accesses ++ [.read ea v false, .write ea (f v).1 false] ∧
    BytesStored s t [(ea, (f v).1)] ∧ t.p = (f v).2 ∧
    t.a = s.a ∧ t.x = s.x ∧ t.y = s.y ∧ t.sp = s.sp ∧ t.pc = s.pc ∧ SameSetting s t ∧ t.cycles = i.baseCycles

/-- The eight rows of an operation in the modes of R450, in the order Immediate, ZeroPage, ZeroPageX, Absolute, AbsoluteX,
AbsoluteY, IndirectX, IndirectY. -/
def aluRows (b1 b2 b3 b4 b5 b6 b7 b8 : Byte) : List (Mode × Byte × Nat) :=
  [(.immediate, b1, 2), (.zeroPage, b2, 3), (.zeroPageX, b3, 4), (.absolute, b4, 4), (.absoluteX, b5, 4),
   (.absoluteY, b6, 4), (.indirectX, b7, 6), (.indirectY, b8, 5)]

/-- The rows of a read-modify-write operation on memory, in the order ZeroPage, ZeroPageX, Absolute, AbsoluteX. -/
def modifyRows (b1 b2 b3 b4 : Byte) : List (Mode × Byte × Nat) :=
  [(.zeroPage, b1, 5), (.zeroPageX, b2, 6), (.absolute, b3, 6), (.absoluteX, b4, 7)]

/-- ADC and SBC as one law (R455): `r` is the result, `carry` and `overflow` the conditions for C and V. -/
def arithmetic (r : Byte) (carry overflow : Prop) [Decidable carry] [Decidable overflow] (u : State) : State :=
  { u with a := r, p := { nz r u.p with c := decide carry, v := decide overflow } }

/-- Whether an exact signed result lies outside -128..127 (R15). -/
abbrev outside (x : Int) : Prop := x < -128 ∨ 127 < x

/-- One branch (R704): the opcode byte and the condition; taken it goes to the target and costs one cycle more, two on another
page than pc_after; not taken it does nothing. -/
def Branches (mk : Operand → Instr) (opcode : Byte) (cond : Status → Prop) : Prop :=
  Encodes mk [(.relative, opcode, 2)] ∧
    ∀ (d : Byte) (s : State),
      (cond s.p → ∃ target : Word, (target.toNat : Int) = (s.pc.toNat + d.toInt) % 65536 ∧
        exec (mk (.relative d)) s =
          .next { s with pc := target, cycles := if target.toNat / 256 = s.pc.toNat / 256 then 3 else 4 }) ∧
      (¬ cond s.p → exec (mk (.relative d)) s = .next { s with cycles := 2 })

/-- A register instruction of Implied mode: opcode byte, and its whole effect. It costs 2 cycles. -/
def RegisterOp (i : Instr) (opcode : Byte) (effect : State → State) : Prop :=
  EncodesImplied i opcode 2 ∧ ∀ s, exec i s = .next { effect s with cycles := 2 }

/-- The operations of which an instruction is one. -/
abbrev IsOneOf (i : Instr) (ops : List Op) : Prop := i.op ∈ ops.map some

/-- Whether an access was made with the debug flag (R201). -/
def isDebug : Access → Bool
  | .read _ _ d | .write _ _ d => d

/-- The forms that store to memory (R210): stores, read-modify-write on memory, pushes. -/
def storesMemory (i : Instr) : Prop :=
  IsOneOf i [.sta, .stx, .sty, .inc, .dec, .pha, .php, .jsr, .brk] ∨
    IsOneOf i [.asl, .lsr, .rol, .ror] ∧ i.operand ≠ .accumulator

/-- Whether a branch is taken in a state. -/
def branchTaken (i : Instr) (s : State) : Bool :=
  match i with
  | .bcc _ => !s.p.c
  | .bcs _ => s.p.c
  | .beq _ => s.p.z
  | .bmi _ => s.p.n
  | .bne _ => !s.p.z
  | .bpl _ => !s.p.n
  | .bvc _ => !s.p.v
  | .bvs _ => s.p.v
  | _ => false

/-- The caller presents no request at this boundary. -/
def NoRequest (s : State) : Prop := s.requests = [] ∨ ∃ rest, s.requests = none :: rest

/-- The state after so many reads of consecutive addresses from `a` on. -/
def afterReads : Nat → Word → State → State
  | 0, _, s => s
  | k + 1, a, s => afterReads k (a + 1) (busRead a s).2

/-- Two states after a push of an image of P to `q` that differ in the D of that image, bit 3, alone: the accesses are the same
but for that byte, and so is memory, where `q` is plain. -/
def DifferInPushedD (s t u : State) (q : Word) (d : Bool) : Prop :=
  ∃ earlier later v w,
    t.accesses = s.accesses ++ earlier ++ .write q v false :: later ∧
    u.accesses = s.accesses ++ earlier ++ .write q w false :: later ∧
    v.toNat.testBit 3 = s.p.d ∧ w.toNat.testBit 3 = d ∧ (∀ k, k ≠ 3 → w.toNat.testBit k = v.toNat.testBit k) ∧
    (∀ a, a ≠ q → u.peek a = t.peek a) ∧
    (Memory.wf s.mem = true → s.isPlain q = true → t.peek q = some v ∧ u.peek q = some w)

/-- How many of the first `k` transactions from a state are steps, as long as each has a next state (R17, R320). -/
def stepsAmong : Nat → State → Nat
  | 0, _ => 0
  | k + 1, s =>
    (if s.requests.head?.join.isSome then 0 else 1) +
      match step s with
      | .next t => stepsAmong k t
      | .fault _ => 0
      | .refused _ => 0

end Sys2Proof.Claims

open Sys2Proof Sys2Proof.Machine Sys2Proof.Claims

/-! ## Encoding -/

/-- Decoding an encoded well-formed instruction gives it back, whatever follows (R300 to R310). -/
def Obligations.EveryInstructionDecodesFromItsBytes : Prop :=
  ∀ (i : Instr) (rest : List Byte), i.wellFormed = true → decode (encode i ++ rest) = .ok (i, rest)

/-- Decoding is total (R303): three bytes always decode, to an instruction of the core or to the placeholder, and the bytes of
what decodes are those decoded. -/
def Obligations.DecodingIsTotalAndGivesOnlyInstructions : Prop :=
  (∀ (bs : List Byte) (i : Instr) (rest : List Byte), decode bs = .ok (i, rest) →
    i.wellFormed = true ∧ encode i ++ rest = bs) ∧
  ∀ b0 b1 b2 : Byte, ∃ i rest, decode [b0, b1, b2] = .ok (i, rest)

/-- No two rows share a byte and none a pair of operation and mode; STX and STY have three distinct bytes each (R307).
Those six bytes are the spec's D2 (log 10). -/
def Obligations.OpcodeTableIsUnambiguous : Prop :=
  opcodeTable.Pairwise (fun r r' => r.opcode ≠ r'.opcode ∧ (r.op, r.mode) ≠ (r'.op, r'.mode)) ∧
  (∀ b : Byte, (∃ r, rowOfByte b = some r ∧ r.op = .stx) ↔ b ∈ [0x86, 0x96, 0x8E]) ∧
  (∀ b : Byte, (∃ r, rowOfByte b = some r ∧ r.op = .sty) ↔ b ∈ [0x84, 0x94, 0x8C])

/-- The five decode vectors that the source states (R306). -/
def Obligations.SourceVectorsDecode : Prop :=
  decode [0x00] = .ok (.brk, []) ∧ decode [0xEA] = .ok (.nop, []) ∧
  (∀ b, decode [0xA9, b] = .ok (.lda (.immediate b), [])) ∧
  (∀ l h, decode [0x4C, l, h] = .ok (.jmp (.absolute (word l h)), [])) ∧
  ∀ l h, decode [0x6C, l, h] = .ok (.jmp (.indirect (word l h)), [])

/-! ## The step driver -/

/-- A fetch reads the opcode byte at PC, then the operand bytes its mode carries at the addresses after it, each once and in
order: byte `k` is what the bus answers at PC + `k` after the `k` reads before it. PC ends behind them, and nothing else
changes (R300, R308, R214, R421; the coherence is the spec's D14, log 15; that nothing else is read and that the operand bytes come in
the order of their addresses, low byte first, is its D6, log 12). -/
def Obligations.FetchReadsOpcodeThenOperandBytes : Prop :=
  ∀ s : State, ∃ bs : List Byte,
    bs.length = 1 + operandCount (busValue s.pc s) ∧
    (∀ k, (h : k < bs.length) → bs[k] = busValue (s.pc + BitVec.ofNat 16 k) (afterReads k s.pc s)) ∧
    decode bs = .ok ((fetchInstr s).1, []) ∧
    (fetchInstr s).2.pc = s.pc + BitVec.ofNat 16 bs.length ∧
    (fetchInstr s).2.accesses = s.accesses ++ bs.mapIdx (fun k b => .read (s.pc + BitVec.ofNat 16 k) b false) ∧
    OnlyOutputs { s with pc := (fetchInstr s).2.pc } (fetchInstr s).2

/-- A step without a request runs the instruction fetched; where the bytes at PC are those of a well-formed instruction, it
runs that one, PC behind its bytes, in a transaction that has made its fetches and nothing else (R320; a step takes no
request by the spec's D21, log 15; the list of requests is log 8, the transactions that are over are log 4). -/
def Obligations.StepRunsTheInstructionAtPc : Prop :=
  ∀ s : State, s.resetDone = true → NoRequest s →
    (let f := fetchInstr { s with
        requests := s.requests.tail
        past := s.past ++ [⟨s.accesses, s.cycles⟩]
        accesses := []
        event := none }
     step s = exec f.1 f.2) ∧
    ∀ i : Instr, i.wellFormed = true →
      (∀ k, (h : k < (encode i).length) → s.peek (s.pc + BitVec.ofNat 16 k) = some ((encode i)[k])) →
      step s = exec i { s with
        pc := s.pc + BitVec.ofNat 16 (encode i).length
        requests := s.requests.tail
        past := s.past ++ [⟨s.accesses, s.cycles⟩]
        event := none
        accesses := (encode i).mapIdx fun k b => .read (s.pc + BitVec.ofNat 16 k) b false }

/-- Before RESET a step, an NMI and an IRQ end with `NotReset` (R321, R908, R909), and BRK as a request ends with
`BadRequest` at any time (R908). The events are the spec's D5 and D9; that they stop the machine is log 7. -/
def Obligations.NotResetAndBadRequest : Prop :=
  ∀ s : State,
    (s.resetDone = false → NoRequest s → step s = .fault .notReset) ∧
    (s.resetDone = false → ∀ rest, s.requests = some .nmi :: rest ∨ s.requests = some .irq :: rest →
      step s = .fault .notReset) ∧
    ∀ rest, s.requests = some .brk :: rest → step s = .fault .badRequest

/-- Every transaction after RESET has a next state, whatever the bytes fetched, unless BRK is presented as a request; and
`reset_done` stays set (93: every state has a defined next state or a named event; R115). That an unmapped byte goes on is
log 6. -/
def Obligations.EveryTransactionAfterResetCompletes : Prop :=
  ∀ s : State, s.resetDone = true → (∀ rest, s.requests ≠ some .brk :: rest) →
    ∃ t, step s = .next t ∧ t.resetDone = true

/-- Every transaction keeps the canonical form of memory, from every state that has it (the form is the model's, log 2). -/
def Obligations.EveryTransactionKeepsCanonicalMemory : Prop :=
  ∀ s t : State, Memory.wf s.mem = true → step s = .next t → Memory.wf t.mem = true

/-- After any transaction its accesses were made without the debug flag (R201), and its cycle count is at most 7
(R322, R1012; the counts are the spec's D3 and D10, logs 10 and 11). -/
def Obligations.NoDebugAccessAndAtMostSevenCycles : Prop :=
  ∀ s t : State, step s = .next t → (∀ x ∈ t.accesses, isDebug x = false) ∧ t.cycles ≤ 7

/-- The state after reset is that of the RESET dispatch on the construction state (R117, R910), and its memory is canonical.
What is known of the bus and the empty request list are the model's choice (log 2, log 3, log 4, log 8). -/
def Obligations.ResetStateIsTheResetDispatch : Prop :=
  dispatchInterrupt .reset State.construction = .next State.reset ∧ State.reset.resetDone = true ∧
  Memory.wf State.reset.mem = true ∧
  State.construction.pc = 0 ∧ State.construction.a = 0 ∧ State.construction.x = 0 ∧ State.construction.y = 0 ∧
  State.construction.sp = 0 ∧ (∀ b, pImage b State.construction.p = byte (32 + 16 * bit b)) ∧
  State.construction.resetDone = false

/-- A term that is no instruction is refused by name and does nothing (the model's choice, log 13; R401). -/
def Obligations.IllFormedTermsAreRefused : Prop :=
  ∀ (i : Instr) (s : State), i.wellFormed = false → exec i s = .refused .illFormed

/-! ## The bus and the resolver -/

/-- One bus read and one bus write (R201, R203). At an address the premise `plain` does not name, the read answers the oracle,
asked with the transactions that are over and the accesses already made, and a write changes no plain memory: it is only seen
by the oracle. A plain address reads as memory has it, and reads back what was written; a write leaves every other address.
The forms of the premise and of the oracle are the model's choice (logs 1, 4). -/
def Obligations.BusReadsAndWrites : Prop :=
  ∀ (s : State) (a : Word) (v : Byte),
    (∀ b, s.peek a = some b → busValue a s = b) ∧
    (s.isPlain a = false → busValue a s = Config.busAnswer s.past s.accesses a ∧ SameMemory s (busWrite a v s)) ∧
    (Memory.wf s.mem = true → s.isPlain a = true → busValue a (busWrite a v s) = v) ∧
    (∀ b, b ≠ a → (busWrite a v s).peek b = s.peek b) ∧
    (busRead a s).2.accesses = s.accesses ++ [.read a (busValue a s) false] ∧
    (busWrite a v s).accesses = s.accesses ++ [.write a v false]

/-- The modes that read no pointer: the operand descriptor, no crossing, no access (R402 to R408, R411). -/
def Obligations.ResolveDirectModes : Prop :=
  ∀ (s : State) (b : Byte) (w : Word),
    resolve .implied s = ⟨.noOperand, false, s⟩ ∧ resolve .accumulator s = ⟨.acc, false, s⟩ ∧
    resolve (.immediate b) s = ⟨.imm b, false, s⟩ ∧
    resolve (.zeroPage b) s = ⟨.mem (BitVec.ofNat 16 b.toNat), false, s⟩ ∧
    resolve (.zeroPageX b) s = ⟨.mem (BitVec.ofNat 16 ((b.toNat + s.x.toNat) % 256)), false, s⟩ ∧
    resolve (.zeroPageY b) s = ⟨.mem (BitVec.ofNat 16 ((b.toNat + s.y.toNat) % 256)), false, s⟩ ∧
    resolve (.absolute w) s = ⟨.mem w, false, s⟩ ∧
    resolve (.relative b) s = ⟨.rel b, false, s⟩

/-- The indexed absolute modes: a 16-bit addition modulo 65536, crossing when the high byte changes, no access
(R409, R410, R415; the wrap is the spec's D12, log 15). -/
def Obligations.ResolveIndexedAbsolute : Prop :=
  ∀ (s : State) (w : Word),
    (let ea := (w.toNat + s.x.toNat) % 65536
     resolve (.absoluteX w) s = ⟨.mem (BitVec.ofNat 16 ea), decide (w.toNat / 256 ≠ ea / 256), s⟩) ∧
    (let ea := (w.toNat + s.y.toNat) % 65536
     resolve (.absoluteY w) s = ⟨.mem (BitVec.ofNat 16 ea), decide (w.toNat / 256 ≠ ea / 256), s⟩)

/-- The modes with a pointer: two reads, low byte first, the high byte from the next address of the same page; IndirectY then
adds Y to the word read, modulo 65536 (R412, R413, R414, R421; the wraps of IndirectY are the spec's D12, the order of the
reads its D6: logs 15 and 12). -/
def Obligations.ResolvePointerModes : Prop :=
  ∀ (s : State) (b : Byte) (w : Word),
    (let lowAt := w
     let highAt := BitVec.ofNat 16 (w.toNat / 256 * 256 + (w.toNat + 1) % 256)
     let l := busValue lowAt s
     let h := busValue highAt (busRead lowAt s).2
     let r := resolve (.indirect w) s
     r.opd = .mem (word l h) ∧ r.crossed = false ∧ OnlyOutputs s r.state ∧
     r.state.accesses = s.accesses ++ [.read lowAt l false, .read highAt h false]) ∧
    (let z := (b.toNat + s.x.toNat) % 256
     let lowAt := BitVec.ofNat 16 z
     let highAt := BitVec.ofNat 16 ((z + 1) % 256)
     let l := busValue lowAt s
     let h := busValue highAt (busRead lowAt s).2
     let r := resolve (.indirectX b) s
     r.opd = .mem (word l h) ∧ r.crossed = false ∧ OnlyOutputs s r.state ∧
     r.state.accesses = s.accesses ++ [.read lowAt l false, .read highAt h false]) ∧
    (let lowAt := BitVec.ofNat 16 b.toNat
     let highAt := BitVec.ofNat 16 ((b.toNat + 1) % 256)
     let l := busValue lowAt s
     let h := busValue highAt (busRead lowAt s).2
     let base := h.toNat * 256 + l.toNat
     let ea := (base + s.y.toNat) % 65536
     let r := resolve (.indirectY b) s
     r.opd = .mem (BitVec.ofNat 16 ea) ∧ r.crossed = decide (base / 256 ≠ ea / 256) ∧ OnlyOutputs s r.state ∧
     r.state.accesses = s.accesses ++ [.read lowAt l false, .read highAt h false])

/-- A read-class instruction takes an immediate value with no access, and reads a memory operand once, after every access of
the resolver (R401, R420, R421; the order is the spec's D6, log 12). -/
def Obligations.ReadClassLoadsItsOperandOnce : Prop :=
  ∀ (i : Instr) (s : State), isReadClass i = true → i.wellFormed = true →
    (∃ v, i.operand = .immediate v ∧ ∃ u, readOperand i i.operand s = some (v, u) ∧ u.accesses = s.accesses) ∨
    ∃ ea, (resolve i.operand s).opd = .mem ea ∧
      let v := busValue ea (resolve i.operand s).state
      ∃ u, readOperand i i.operand s = some (v, u) ∧
        u.accesses = (resolve i.operand s).state.accesses ++ [.read ea v false]

/-! ## Arithmetic and logic -/

/-- ADC and SBC: encodings, the result modulo 256, C and V as the arithmetic laws say, N and Z of the result
(R450, R451, R455). Nothing else but outputs changes. -/
def Obligations.AdcAndSbcFollowTheArithmeticLaws : Prop :=
  Encodes .adc (aluRows 0x69 0x65 0x75 0x6D 0x7D 0x79 0x61 0x71) ∧
  Encodes .sbc (aluRows 0xE9 0xE5 0xF5 0xED 0xFD 0xF9 0xE1 0xF1) ∧
  ∀ (o : Operand) (s : State),
    ((Instr.adc o).wellFormed = true → RunsOnOperand (.adc o) s fun m u =>
      arithmetic (byte (s.a.toNat + m.toNat + bit s.p.c)) (256 ≤ s.a.toNat + m.toNat + bit s.p.c)
        (outside (s.a.toInt + m.toInt + bit s.p.c)) u) ∧
    ((Instr.sbc o).wellFormed = true → RunsOnOperand (.sbc o) s fun m u =>
      arithmetic (BitVec.ofInt 8 (s.a.toNat - m.toNat - (1 - bit s.p.c : Int)))
        (m.toNat + (1 - bit s.p.c) ≤ s.a.toNat)
        (outside (s.a.toInt - m.toInt - (1 - bit s.p.c : Int))) u)

/-- AND, EOR and ORA: encodings, A the bitwise result, N and Z of it (R452, R453, R454). -/
def Obligations.LogicOperationsOnA : Prop :=
  Encodes .and (aluRows 0x29 0x25 0x35 0x2D 0x3D 0x39 0x21 0x31) ∧
  Encodes .eor (aluRows 0x49 0x45 0x55 0x4D 0x5D 0x59 0x41 0x51) ∧
  Encodes .ora (aluRows 0x09 0x05 0x15 0x0D 0x1D 0x19 0x01 0x11) ∧
  ∀ (o : Operand) (s : State),
    ((Instr.and o).wellFormed = true → RunsOnOperand (.and o) s fun m u =>
      { u with a := s.a &&& m, p := nz (s.a &&& m) s.p }) ∧
    ((Instr.eor o).wellFormed = true → RunsOnOperand (.eor o) s fun m u =>
      { u with a := s.a ^^^ m, p := nz (s.a ^^^ m) s.p }) ∧
    ((Instr.ora o).wellFormed = true → RunsOnOperand (.ora o) s fun m u =>
      { u with a := s.a ||| m, p := nz (s.a ||| m) s.p })

/-- The Decimal flag is inert: with D changed, every instruction does the same, D aside where the instruction does not write
it; PHP and BRK push an image of P, and there bit 3 of that one byte differs, on the bus and in memory, and nothing else
(R456; the exceptions from R110 and R112). After that push BRK reads its vector: the claim compares what follows where the
vector is plain, since an oracle that has seen another byte may answer otherwise. The two runs meet the same oracle, which is
asked the same (log 4, a design choice, unsafe for a claim about two runs). -/
def Obligations.DecimalFlagIsInert : Prop :=
  ∀ (i : Instr) (s t : State) (d : Bool), exec i s = .next t →
    ∃ u, exec i { s with p := { s.p with d := d } } = .next u ∧
      u.a = t.a ∧ u.x = t.x ∧ u.y = t.y ∧ u.sp = t.sp ∧ u.cycles = t.cycles ∧ SameSetting t u ∧
      u.p = (if IsOneOf i [.cld, .sed, .plp, .rti] then t.p else { t.p with d := d }) ∧
      (¬ IsOneOf i [.php, .brk] → u.pc = t.pc ∧ u.mem = t.mem ∧ u.accesses = t.accesses) ∧
      (i = .php → u.pc = t.pc ∧ DifferInPushedD s t u (page1 s.sp) d) ∧
      (i = .brk → (∀ a, a ≠ page1 (s.sp - 2) → u.peek a = t.peek a) ∧
        (s.isPlain 0xFFFE = true → s.isPlain 0xFFFF = true →
          u.pc = t.pc ∧ DifferInPushedD s t u (page1 (s.sp - 2)) d))

/-! ## Shift, rotate, increment, decrement -/

/-- ASL, LSR, ROL and ROR: encodings, the result, C the bit shifted out, N and Z of the result, on A or on memory
(R500 to R504; one read and one write is the spec's D6, log 12; no page penalty for AbsoluteX is its D11, log 15). -/
def Obligations.ShiftsAndRotates : Prop :=
  Encodes .asl ((.accumulator, 0x0A, 2) :: modifyRows 0x06 0x16 0x0E 0x1E) ∧
  Encodes .lsr ((.accumulator, 0x4A, 2) :: modifyRows 0x46 0x56 0x4E 0x5E) ∧
  Encodes .rol ((.accumulator, 0x2A, 2) :: modifyRows 0x26 0x36 0x2E 0x3E) ∧
  Encodes .ror ((.accumulator, 0x6A, 2) :: modifyRows 0x66 0x76 0x6E 0x7E) ∧
  ∀ (o : Operand) (s : State),
    ((Instr.asl o).wellFormed = true → ModifiesByte (.asl o) s fun v =>
      let r := byte (2 * v.toNat)
      (r, { nz r s.p with c := decide (128 ≤ v.toNat) })) ∧
    ((Instr.lsr o).wellFormed = true → ModifiesByte (.lsr o) s fun v =>
      let r := byte (v.toNat / 2)
      (r, { nz r s.p with c := decide (v.toNat % 2 = 1) })) ∧
    ((Instr.rol o).wellFormed = true → ModifiesByte (.rol o) s fun v =>
      let r := byte (2 * v.toNat + bit s.p.c)
      (r, { nz r s.p with c := decide (128 ≤ v.toNat) })) ∧
    ((Instr.ror o).wellFormed = true → ModifiesByte (.ror o) s fun v =>
      let r := byte (v.toNat / 2 + 128 * bit s.p.c)
      (r, { nz r s.p with c := decide (v.toNat % 2 = 1) }))

/-- INC and DEC: encodings, one up or down modulo 256 on memory, N and Z of the result, no other flag (R550,
R551; one read and one write is the spec's D6, log 12; no page penalty for AbsoluteX is its D11, log 15). -/
def Obligations.IncAndDecMemory : Prop :=
  Encodes .inc (modifyRows 0xE6 0xF6 0xEE 0xFE) ∧ Encodes .dec (modifyRows 0xC6 0xD6 0xCE 0xDE) ∧
  ∀ (o : Operand) (s : State),
    ((Instr.inc o).wellFormed = true → ModifiesByte (.inc o) s fun v =>
      (byte (v.toNat + 1), nz (byte (v.toNat + 1)) s.p)) ∧
    ((Instr.dec o).wellFormed = true → ModifiesByte (.dec o) s fun v =>
      (byte (v.toNat + 255), nz (byte (v.toNat + 255)) s.p))

/-- INX, INY, DEX and DEY: one up or down modulo 256, N and Z of the result, nothing else (R552 to R555). -/
def Obligations.IncrementAndDecrementRegisters : Prop :=
  RegisterOp .inx 0xE8 (fun s => { s with x := byte (s.x.toNat + 1), p := nz (byte (s.x.toNat + 1)) s.p }) ∧
  RegisterOp .iny 0xC8 (fun s => { s with y := byte (s.y.toNat + 1), p := nz (byte (s.y.toNat + 1)) s.p }) ∧
  RegisterOp .dex 0xCA (fun s => { s with x := byte (s.x.toNat + 255), p := nz (byte (s.x.toNat + 255)) s.p }) ∧
  RegisterOp .dey 0x88 (fun s => { s with y := byte (s.y.toNat + 255), p := nz (byte (s.y.toNat + 255)) s.p })

/-! ## Load and store -/

/-- LDA, LDX and LDY: encodings, the register the operand value, N and Z of it (R600, R601, R602). -/
def Obligations.LoadsSetRegisterAndFlags : Prop :=
  Encodes .lda (aluRows 0xA9 0xA5 0xB5 0xAD 0xBD 0xB9 0xA1 0xB1) ∧
  Encodes .ldx [(.immediate, 0xA2, 2), (.zeroPage, 0xA6, 3), (.zeroPageY, 0xB6, 4), (.absolute, 0xAE, 4),
    (.absoluteY, 0xBE, 4)] ∧
  Encodes .ldy [(.immediate, 0xA0, 2), (.zeroPage, 0xA4, 3), (.zeroPageX, 0xB4, 4), (.absolute, 0xAC, 4),
    (.absoluteX, 0xBC, 4)] ∧
  ∀ (o : Operand) (s : State),
    ((Instr.lda o).wellFormed = true → RunsOnOperand (.lda o) s fun m u => { u with a := m, p := nz m s.p }) ∧
    ((Instr.ldx o).wellFormed = true → RunsOnOperand (.ldx o) s fun m u => { u with x := m, p := nz m s.p }) ∧
    ((Instr.ldy o).wellFormed = true → RunsOnOperand (.ldy o) s fun m u => { u with y := m, p := nz m s.p })

/-- STA, STX and STY: encodings, one write of the register at the operand's address, no register and no flag changed, no
page-cross penalty (R603, R604, R605; that nothing is read there is the spec's D6, log 12). -/
def Obligations.StoresWriteOneByte : Prop :=
  Encodes .sta [(.zeroPage, 0x85, 3), (.zeroPageX, 0x95, 4), (.absolute, 0x8D, 4), (.absoluteX, 0x9D, 5),
    (.absoluteY, 0x99, 5), (.indirectX, 0x81, 6), (.indirectY, 0x91, 6)] ∧
  Encodes .stx [(.zeroPage, 0x86, 3), (.zeroPageY, 0x96, 4), (.absolute, 0x8E, 4)] ∧
  Encodes .sty [(.zeroPage, 0x84, 3), (.zeroPageX, 0x94, 4), (.absolute, 0x8C, 4)] ∧
  ∀ (o : Operand) (s : State),
    ((Instr.sta o).wellFormed = true → StoresByte (.sta o) s s.a) ∧
    ((Instr.stx o).wellFormed = true → StoresByte (.stx o) s s.x) ∧
    ((Instr.sty o).wellFormed = true → StoresByte (.sty o) s s.y)

/-! ## Flags and compare -/

/-- CLC, SEC, CLI, SEI, CLD, SED and CLV set or clear exactly one flag (R650 to R656). -/
def Obligations.FlagInstructionsWriteOneFlag : Prop :=
  RegisterOp .clc 0x18 (fun s => { s with p := { s.p with c := false } }) ∧
  RegisterOp .sec 0x38 (fun s => { s with p := { s.p with c := true } }) ∧
  RegisterOp .cli 0x58 (fun s => { s with p := { s.p with i := false } }) ∧
  RegisterOp .sei 0x78 (fun s => { s with p := { s.p with i := true } }) ∧
  RegisterOp .cld 0xD8 (fun s => { s with p := { s.p with d := false } }) ∧
  RegisterOp .sed 0xF8 (fun s => { s with p := { s.p with d := true } }) ∧
  RegisterOp .clv 0xB8 (fun s => { s with p := { s.p with v := false } })

/-- CMP, CPX and CPY: encodings, C when the register is at least the operand, Z when they are equal, N bit 7 of the
difference; no register, no V (R657 to R660). -/
def Obligations.ComparesSetCarryZeroNegative : Prop :=
  Encodes .cmp (aluRows 0xC9 0xC5 0xD5 0xCD 0xDD 0xD9 0xC1 0xD1) ∧
  Encodes .cpx [(.immediate, 0xE0, 2), (.zeroPage, 0xE4, 3), (.absolute, 0xEC, 4)] ∧
  Encodes .cpy [(.immediate, 0xC0, 2), (.zeroPage, 0xC4, 3), (.absolute, 0xCC, 4)] ∧
  ∀ (o : Operand) (s : State),
    let compared (reg m : Byte) (u : State) : State :=
      { u with p := { s.p with
          c := decide (m.toNat ≤ reg.toNat)
          z := decide (reg.toNat = m.toNat)
          n := decide (128 ≤ (reg.toNat + 256 - m.toNat) % 256) } }
    ((Instr.cmp o).wellFormed = true → RunsOnOperand (.cmp o) s (compared s.a)) ∧
    ((Instr.cpx o).wellFormed = true → RunsOnOperand (.cpx o) s (compared s.x)) ∧
    ((Instr.cpy o).wellFormed = true → RunsOnOperand (.cpy o) s (compared s.y))

/-! ## Jump, call, return, branch -/

/-- JMP: PC from the address (Absolute) or from the word the pointer points at, whose high byte comes from the same page
(R700, R412). Nothing is read at the target, and nothing else but outputs changes. That the pointer's low byte is read first,
and nothing but the pointer is read, is the spec's D6 (R421, log 12). -/
def Obligations.JmpGoesToItsAddress : Prop :=
  Encodes .jmp [(.absolute, 0x4C, 3), (.indirect, 0x6C, 5)] ∧
  ∀ (w : Word) (s : State),
    exec (.jmp (.absolute w)) s = .next { s with pc := w, cycles := 3 } ∧
    let highAt := BitVec.ofNat 16 (w.toNat / 256 * 256 + (w.toNat + 1) % 256)
    let l := busValue w s
    let h := busValue highAt (busRead w s).2
    ∃ t, exec (.jmp (.indirect w)) s = .next t ∧ OnlyOutputs { s with pc := word l h } t ∧ t.cycles = 5 ∧
      t.accesses = s.accesses ++ [.read w l false, .read highAt h false]

/-- JSR: the address of its last byte pushed, high byte first, S two lower, PC the target (R701). Nothing else but outputs
changes. -/
def Obligations.JsrPushesReturnAddress : Prop :=
  Encodes .jsr [(.absolute, 0x20, 6)] ∧
  ∀ (w : Word) (s : State), ∃ t, exec (.jsr (.absolute w)) s = .next t ∧
    t.pc = w ∧ t.sp = s.sp - 2 ∧ t.a = s.a ∧ t.x = s.x ∧ t.y = s.y ∧ t.p = s.p ∧ SameSetting s t ∧ t.cycles = 6 ∧
    t.accesses = s.accesses ++
      [.write (page1 s.sp) (hi (s.pc - 1)) false, .write (page1 (s.sp - 1)) (lo (s.pc - 1)) false] ∧
    BytesStored s t [(page1 s.sp, hi (s.pc - 1)), (page1 (s.sp - 1), lo (s.pc - 1))]

/-- RTS: two bytes popped, low then high, PC one more than their word modulo 65536, S two higher (R702). Nothing else but
outputs changes. -/
def Obligations.RtsReturnsBehindThePoppedAddress : Prop :=
  EncodesImplied .rts 0x60 6 ∧
  ∀ s : State,
    let l := busValue (page1 (s.sp + 1)) s
    let h := busValue (page1 (s.sp + 2)) (busRead (page1 (s.sp + 1)) s).2
    ∃ t, exec .rts s = .next t ∧ OnlyOutputs { s with sp := s.sp + 2, pc := word l h + 1 } t ∧ t.cycles = 6 ∧
      t.accesses = s.accesses ++ [.read (page1 (s.sp + 1)) l false, .read (page1 (s.sp + 2)) h false]

/-- RTI: the flags from the first byte popped, bits 4 and 5 of it ignored, then PC low and PC high, no 1 added; S three higher
(R703, R113, R912; the bits ignored are the spec's D7, log 15). Nothing else but outputs changes. -/
def Obligations.RtiRestoresFlagsAndPc : Prop :=
  EncodesImplied .rti 0x40 6 ∧
  ∀ s : State,
    let a1 := page1 (s.sp + 1)
    let a2 := page1 (s.sp + 2)
    let a3 := page1 (s.sp + 3)
    let f := busValue a1 s
    let l := busValue a2 (busRead a1 s).2
    let h := busValue a3 (busRead a2 (busRead a1 s).2).2
    ∃ t, exec .rti s = .next t ∧
      OnlyOutputs { s with
        sp := s.sp + 3
        pc := word l h
        p := { n := f.toNat.testBit 7, v := f.toNat.testBit 6, d := f.toNat.testBit 3
               i := f.toNat.testBit 2, z := f.toNat.testBit 1, c := f.toNat.testBit 0 } } t ∧
      t.cycles = 6 ∧ t.accesses = s.accesses ++ [.read a1 f false, .read a2 l false, .read a3 h false]

/-- The eight branches: conditions, targets, cycles (R704 to R712, R411; that the target wraps modulo 65536 is the spec's D12,
log 15). No flag, no register but PC, no memory changes. -/
def Obligations.BranchesOnOneFlag : Prop :=
  Branches .bcc 0x90 (fun p => p.c = false) ∧ Branches .bcs 0xB0 (fun p => p.c = true) ∧
  Branches .beq 0xF0 (fun p => p.z = true) ∧ Branches .bmi 0x30 (fun p => p.n = true) ∧
  Branches .bne 0xD0 (fun p => p.z = false) ∧ Branches .bpl 0x10 (fun p => p.n = false) ∧
  Branches .bvc 0x50 (fun p => p.v = false) ∧ Branches .bvs 0x70 (fun p => p.v = true)

/-! ## Stack and transfers -/

/-- `Push` and `Pop` (R750, R751): the byte goes to page 1 at S, then S falls; S rises, then the byte comes from page 1 at S;
both modulo 256. -/
def Obligations.PushAndPopMoveOneByte : Prop :=
  ∀ (s : State) (v : Byte),
    (let t := push v s
     t.accesses = s.accesses ++ [.write (page1 s.sp) v false] ∧ t.sp.toNat = (s.sp.toNat + 255) % 256 ∧
     BytesStored s t [(page1 s.sp, v)] ∧ t.pc = s.pc ∧ t.a = s.a ∧ t.x = s.x ∧ t.y = s.y ∧ t.p = s.p ∧
     SameSetting s t) ∧
    (let b := busValue (page1 (s.sp + 1)) s
     (pop s).1 = b ∧ OnlyOutputs { s with sp := byte (s.sp.toNat + 1) } (pop s).2 ∧
     (pop s).2.accesses = s.accesses ++ [.read (page1 (s.sp + 1)) b false])

/-- Any number of pushes stays in page 1: push number `k` writes at S minus `k` modulo 256, S falls by the number of bytes
modulo 256 (so 256 pushes leave it as it was), and no byte outside page 1 changes; a pop at S = 0xFF reads 0x0100 (R752). -/
def Obligations.PushesStayInPageOne : Prop :=
  ∀ (s : State) (l : List Byte),
    let t := l.foldl (fun u v => push v u) s
    t.sp = s.sp - BitVec.ofNat 8 l.length ∧
    t.accesses = s.accesses ++ l.mapIdx (fun k v => .write (page1 (s.sp - BitVec.ofNat 8 k)) v false) ∧
    (∀ a : Word, a.toNat < 256 ∨ 512 ≤ a.toNat → t.peek a = s.peek a) ∧
    (s.sp = 0xFF → (pop s).2.sp = 0x00 ∧ (pop s).2.accesses = s.accesses ++ [.read 0x0100 (pop s).1 false])

/-- PHA and PHP: A, or the image of P with bits 5 and 4 set, stored in page 1 at S; S one lower; no flag changed
(R753, R754, R112). -/
def Obligations.PushesOfAAndStatus : Prop :=
  EncodesImplied .pha 0x48 3 ∧ EncodesImplied .php 0x08 3 ∧
  ∀ s : State,
    let image := byte (128 * bit s.p.n + 64 * bit s.p.v + 32 + 16 + 8 * bit s.p.d + 4 * bit s.p.i +
      2 * bit s.p.z + bit s.p.c)
    ∀ i v, (i = Instr.pha ∧ v = s.a) ∨ (i = .php ∧ v = image) →
      ∃ t, exec i s = .next t ∧ t.accesses = s.accesses ++ [.write (page1 s.sp) v false] ∧
        BytesStored s t [(page1 s.sp, v)] ∧ t.sp = s.sp - 1 ∧ t.pc = s.pc ∧ t.a = s.a ∧ t.x = s.x ∧ t.y = s.y ∧
        t.p = s.p ∧ SameSetting s t ∧ t.cycles = 3

/-- PLA and PLP: one byte popped into A with N and Z of it, or into the flags with bits 5 and 4 ignored (R755, R756; the
spec's D7, log 15). -/
def Obligations.PullsOfAAndStatus : Prop :=
  EncodesImplied .pla 0x68 4 ∧ EncodesImplied .plp 0x28 4 ∧
  ∀ s : State,
    let b := busValue (page1 (s.sp + 1)) s
    (∃ t, exec .pla s = .next t ∧ OnlyOutputs { s with sp := s.sp + 1, a := b, p := nz b s.p } t ∧ t.cycles = 4 ∧
      t.accesses = s.accesses ++ [.read (page1 (s.sp + 1)) b false]) ∧
    ∃ t, exec .plp s = .next t ∧
      OnlyOutputs { s with
        sp := s.sp + 1
        p := { n := b.toNat.testBit 7, v := b.toNat.testBit 6, d := b.toNat.testBit 3
               i := b.toNat.testBit 2, z := b.toNat.testBit 1, c := b.toNat.testBit 0 } } t ∧ t.cycles = 4 ∧
      t.accesses = s.accesses ++ [.read (page1 (s.sp + 1)) b false]

/-- The six transfers; all but TXS set N and Z of the value moved (R757 to R762). -/
def Obligations.TransfersCopyOneRegister : Prop :=
  RegisterOp .tax 0xAA (fun s => { s with x := s.a, p := nz s.a s.p }) ∧
  RegisterOp .tay 0xA8 (fun s => { s with y := s.a, p := nz s.a s.p }) ∧
  RegisterOp .tsx 0xBA (fun s => { s with x := s.sp, p := nz s.sp s.p }) ∧
  RegisterOp .txa 0x8A (fun s => { s with a := s.x, p := nz s.x s.p }) ∧
  RegisterOp .txs 0x9A (fun s => { s with sp := s.x }) ∧
  RegisterOp .tya 0x98 (fun s => { s with a := s.y, p := nz s.y s.p })

/-- The byte image of P and the load of P (R112, R113): the image is the sum of its bits, bit 5 always 1 and bit 4 the Break
value; a load takes the six stored bits of the byte and ignores bits 5 and 4 (the spec's D7, log 15), so a loaded image
gives the flags back. -/
def Obligations.StatusImageAndLoad : Prop :=
  (∀ (b : Bool) (p : Status), (pImage b p).toNat =
    128 * bit p.n + 64 * bit p.v + 32 + 16 * bit b + 8 * bit p.d + 4 * bit p.i + 2 * bit p.z + bit p.c) ∧
  (∀ v : Byte, pLoad v =
    { n := v.toNat.testBit 7, v := v.toNat.testBit 6, d := v.toNat.testBit 3
      i := v.toNat.testBit 2, z := v.toNat.testBit 1, c := v.toNat.testBit 0 }) ∧
  ∀ (b : Bool) (p : Status), pLoad (pImage b p) = p

/-! ## Miscellaneous -/

/-- BIT: encodings, Z of A AND the operand, N and V bits 7 and 6 of the operand, A and memory unchanged (R800). -/
def Obligations.BitTestsTheOperand : Prop :=
  Encodes .bit [(.zeroPage, 0x24, 3), (.absolute, 0x2C, 4)] ∧
  ∀ (o : Operand) (s : State), (Instr.bit o).wellFormed = true → RunsOnOperand (.bit o) s fun m u =>
    { u with p := { s.p with
        z := decide ((s.a &&& m).toNat = 0), n := m.toNat.testBit 7, v := m.toNat.testBit 6 } }

/-- NOP changes nothing but its cycle count (R801). -/
def Obligations.NopChangesNothing : Prop := RegisterOp .nop 0xEA id

/-- BRK: PC past the padding byte, which is not read; then the interrupt entry through 0xFFFE with Break 1, whatever I
(R802; that the padding byte is not read is the spec's D6, R216, logs 12 and 14). What the entry does is stated apart. -/
def Obligations.BrkEntersTheIrqBrkVector : Prop :=
  EncodesImplied .brk 0x00 7 ∧
  ∀ s : State, exec .brk s = .next (interruptEntry 0xFFFE true { s with pc := s.pc + 1, cycles := 7 })

/-- The bytes that decode to the placeholder are the 105 of R309 (the spec's D2, log 10). It runs: no register but PC, no flag
and no memory changes, PC stays behind the byte or goes back to it as the open policy says, with 1 or 0 cycles, and the
event names the byte and its address. That the run goes on is the model's choice (log 6; R820). -/
def Obligations.UnmappedByteHasNoEffectButItsEvent : Prop :=
  unmappedBytes.length = 105 ∧ unmappedBytes.Nodup ∧
  (∀ b : Byte, decode [b] = .ok (.unmapped b, []) ↔ b ∈ unmappedBytes) ∧
  ∀ (b : Byte) (s : State), b ∈ unmappedBytes →
    ∃ t, exec (.unmapped b) s = .next t ∧
      t = { s with pc := t.pc, cycles := t.cycles, event := some (.unmapped b (s.pc - 1)) } ∧
      match Config.unmappedPolicy with
      | .skip => t.pc = s.pc ∧ t.cycles = 1
      | .hold => t.pc = s.pc - 1 ∧ t.cycles = 0

/-! ## Interrupts -/

/-- The shared entry of NMI, IRQ and BRK (R904): PC high, PC low and the image of P before I is set are pushed in that order, I
is set and no other flag, then PC comes from the vector, low byte first (the order is the spec's D6, log 12). S falls by
three; nothing else but outputs changes. -/
def Obligations.InterruptEntryPushesAndVectors : Prop :=
  ∀ (vec : Word) (b : Bool) (s : State),
    let image := pImage b s.p
    ∃ l h, let t := interruptEntry vec b s
      t.accesses = s.accesses ++ [.write (page1 s.sp) (hi s.pc) false, .write (page1 (s.sp - 1)) (lo s.pc) false,
        .write (page1 (s.sp - 2)) image false, .read vec l false, .read (vec + 1) h false] ∧
      BytesStored s t [(page1 s.sp, hi s.pc), (page1 (s.sp - 1), lo s.pc), (page1 (s.sp - 2), image)] ∧
      t.pc = word l h ∧ t.sp = s.sp - 3 ∧ t.p = { s.p with i := true } ∧ t.a = s.a ∧ t.x = s.x ∧ t.y = s.y ∧
      SameSetting s t ∧ t.cycles = s.cycles ∧
      (512 ≤ vec.toNat → vec.toNat < 65535 →
        (∀ v, s.peek vec = some v → l = v) ∧ ∀ v, s.peek (vec + 1) = some v → h = v)

/-- NMI is taken whatever I, through 0xFFFA with Break 0, in `DISPATCH_CYCLES` (R902). Before RESET it ends with
the fault `NotReset` (the spec's D5; log 7). -/
def Obligations.NmiIsTakenWhateverI : Prop :=
  ∀ s : State,
    (s.resetDone = true →
      dispatchInterrupt .nmi s = .next { interruptEntry 0xFFFA false s with cycles := dispatchCycles }) ∧
    (s.resetDone = false → dispatchInterrupt .nmi s = .fault .notReset)

/-- IRQ is taken through 0xFFFE with Break 0 in 7 cycles while I is clear; while I is set it is suppressed, with no access, no
state change and 0 cycles, and not remembered (R903, R1012; the 7 is the spec's D10, log 11, and "not remembered" its D9). -/
def Obligations.IrqIsTakenOrSuppressed : Prop :=
  ∀ s : State, s.resetDone = true →
    (s.p.i = false → dispatchInterrupt .irq s = .next { interruptEntry 0xFFFE false s with cycles := 7 }) ∧
    (s.p.i = true → dispatchInterrupt .irq s = .next { s with cycles := 0 } ∧
      ∀ rest, s.requests = some .irq :: rest →
        step s = .next { s with
          requests := none :: rest
          past := s.past ++ [⟨s.accesses, s.cycles⟩]
          accesses := []
          event := none
          cycles := 0 })

/-- RESET reads its vector, low byte first, and writes PC and `reset_done` alone, whatever they were, in `DISPATCH_CYCLES`
(R910). So A, X, Y, S and the flags stay as the program before left them (R118). That they stay is the spec's D8 (log 15),
the order of the reads its D6 (log 12), the count its D10 (log 11). -/
def Obligations.ResetLoadsPcAlone : Prop :=
  ∀ s : State,
    let l := busValue 0xFFFC s
    let h := busValue 0xFFFD (busRead 0xFFFC s).2
    ∃ t, dispatchInterrupt .reset s = .next t ∧ OnlyOutputs { s with pc := word l h, resetDone := true } t ∧
      t.cycles = dispatchCycles ∧ t.accesses = s.accesses ++ [.read 0xFFFC l false, .read 0xFFFD h false]

/-- A request presented at a boundary is served there, before any instruction: the transaction is its dispatch. At most one is
served at a boundary: that transaction leaves the boundary without one, and the step that follows uses it up (R900, R917;
the list is the model's choice, log 8). -/
def Obligations.OneRequestPerBoundary : Prop :=
  ∀ s : State,
    (∀ k rest, s.requests = some k :: rest →
      step s = dispatchInterrupt k { s with
        requests := none :: rest
        past := s.past ++ [⟨s.accesses, s.cycles⟩]
        accesses := []
        event := none }) ∧
    ∀ t, step s = .next t →
      (∀ k rest, s.requests = some k :: rest → t.requests = none :: rest) ∧
      (NoRequest s → t.requests = s.requests.tail)

/-- RTI from a handler resumes the interrupted program (R905): whatever ran since the entry, if S and the three bytes the entry
stored are as it left them, in plain memory (log 1), RTI gives back PC, the flags and S (bits 4 and 5 of the image: the
spec's D7, log 15). -/
def Obligations.RtiUndoesInterruptEntry : Prop :=
  ∀ (vec : Word) (b : Bool) (s t : State), Memory.wf s.mem = true →
    (∀ k, k < 3 → s.isPlain (page1 (s.sp - BitVec.ofNat 8 k)) = true) →
    t.sp = s.sp - 3 →
    (∀ k, k < 3 → t.peek (page1 (s.sp - BitVec.ofNat 8 k)) =
      (interruptEntry vec b s).peek (page1 (s.sp - BitVec.ofNat 8 k))) →
    ∃ r, exec .rti t = .next r ∧ r.pc = s.pc ∧ r.p = s.p ∧ r.sp = s.sp

/-- RTS from a subroutine comes back behind its JSR (R701, R702): whatever ran since, if S and the two bytes the call stored
are as it left them, in plain memory (log 1). -/
def Obligations.RtsUndoesJsr : Prop :=
  ∀ (w : Word) (s called t : State), Memory.wf s.mem = true →
    (∀ k, k < 2 → s.isPlain (page1 (s.sp - BitVec.ofNat 8 k)) = true) →
    exec (.jsr (.absolute w)) s = .next called →
    t.sp = called.sp →
    (∀ k, k < 2 → t.peek (page1 (s.sp - BitVec.ofNat 8 k)) = called.peek (page1 (s.sp - BitVec.ofNat 8 k))) →
    ∃ r, exec .rts t = .next r ∧ r.pc = s.pc ∧ r.sp = s.sp

/-- A change of I governs the very next dispatch (R652, R653, R1003): after SEI an IRQ is suppressed, after CLI it is taken
(the spec's D16, log 15). -/
def Obligations.SeiAndCliGovernTheNextIrq : Prop :=
  ∀ s t : State, s.resetDone = true →
    (exec .sei s = .next t → dispatchInterrupt .irq t = .next { t with cycles := 0 }) ∧
    (exec .cli s = .next t → ∃ u, dispatchInterrupt .irq t = .next u ∧ u.p.i = true ∧ u.sp = s.sp - 3)

/-! ## Whole-machine rules -/

/-- A form that stores nothing leaves every byte of plain memory (R210). -/
def Obligations.OnlyStoringFormsChangeMemory : Prop :=
  ∀ (i : Instr) (s t : State), exec i s = .next t → ¬ storesMemory i → SameMemory s t

/-- The frame of the storing forms: a store or a read-modify-write changes no byte but the one at its operand's address; a push
no byte but the one, two or three at S and below (R401, R500, R750). -/
def Obligations.StoringFormsChangeOnlyTheirBytes : Prop :=
  ∀ (i : Instr) (s t : State), exec i s = .next t →
    (∀ ea, IsOneOf i [.sta, .stx, .sty, .asl, .lsr, .rol, .ror, .inc, .dec] →
      (resolve i.operand s).opd.address = some ea → ∀ a, a ≠ ea → t.peek a = s.peek a) ∧
    (IsOneOf i [.pha, .php] → ∀ a, a ≠ page1 s.sp → t.peek a = s.peek a) ∧
    (IsOneOf i [.jsr] → ∀ a, a ≠ page1 s.sp → a ≠ page1 (s.sp - 1) → t.peek a = s.peek a) ∧
    (IsOneOf i [.brk] → ∀ a, a ≠ page1 s.sp → a ≠ page1 (s.sp - 1) → a ≠ page1 (s.sp - 2) → t.peek a = s.peek a)

/-- A, X, Y and S change only by the instructions that R102, R103 and R104 list as writing them. -/
def Obligations.RegistersChangeOnlyByTheirInstructions : Prop :=
  ∀ (i : Instr) (s t : State), exec i s = .next t →
    (t.a = s.a ∨ IsOneOf i [.adc, .sbc, .and, .eor, .ora, .lda, .pla, .txa, .tya] ∨
      IsOneOf i [.asl, .lsr, .rol, .ror] ∧ i.operand = .accumulator) ∧
    (t.x = s.x ∨ IsOneOf i [.ldx, .inx, .dex, .tax, .tsx]) ∧
    (t.y = s.y ∨ IsOneOf i [.ldy, .iny, .dey, .tay]) ∧
    (t.sp = s.sp ∨ IsOneOf i [.txs, .pha, .php, .jsr, .brk, .pla, .plp, .rts, .rti])

/-- Each flag changes only by the instructions that R107 to R111 list as writing it. -/
def Obligations.FlagsChangeOnlyByTheirInstructions : Prop :=
  ∀ (i : Instr) (s t : State), exec i s = .next t →
    (t.p.c = s.p.c ∨
      IsOneOf i [.adc, .sbc, .asl, .lsr, .rol, .ror, .cmp, .cpx, .cpy, .sec, .clc, .plp, .rti]) ∧
    (t.p.i = s.p.i ∨ IsOneOf i [.sei, .cli, .plp, .rti, .brk]) ∧
    (t.p.d = s.p.d ∨ IsOneOf i [.sed, .cld, .plp, .rti]) ∧
    (t.p.v = s.p.v ∨ IsOneOf i [.adc, .sbc, .bit, .clv, .plp, .rti]) ∧
    ((t.p.z = s.p.z ∧ t.p.n = s.p.n) ∨
      IsOneOf i [.adc, .sbc, .and, .eor, .ora, .asl, .lsr, .rol, .ror, .inc, .dec, .inx, .iny, .dex, .dey, .lda, .ldx, .ldy] ∨
      IsOneOf i [.cmp, .cpx, .cpy, .bit, .pla, .tax, .tay, .tsx, .txa, .tya, .plp, .rti])

/-- No instruction writes `reset_done` (R115), takes or adds a request (D21, R116), or changes which addresses are plain memory
and which transactions are over; PC changes only by jumps, calls, returns, taken branches, BRK and the placeholder (R323). -/
def Obligations.HiddenStateAndPcFrame : Prop :=
  ∀ (i : Instr) (s t : State), exec i s = .next t →
    t.resetDone = s.resetDone ∧ t.requests = s.requests ∧ t.plain = s.plain ∧ t.past = s.past ∧
    (t.event = s.event ∨ ∃ b, i = .unmapped b) ∧
    (t.pc = s.pc ∨ IsOneOf i [.jmp, .jsr, .rts, .rti, .brk] ∨ branchTaken i s = true ∨ ∃ b, i = .unmapped b)

/-- PC after an instruction that writes no PC: behind its bytes, modulo 65536 (R323), for every step, whatever the bus answers
the fetch, plain memory or not. -/
def Obligations.StepAdvancesPcByTheLength : Prop :=
  ∀ s t : State, s.resetDone = true → NoRequest s → step s = .next t →
    let i := (fetchInstr (beginTransaction { s with requests := s.requests.tail })).1
    ¬ IsOneOf i [.jmp, .jsr, .rts, .rti, .brk] → branchTaken i s = false → (∀ b, i ≠ .unmapped b) →
    t.pc.toNat = (s.pc.toNat + (1 + i.operand.mode.operandBytes)) % 65536

/-- The cycle count of an instruction (R1010, R420): its base count, one more when a read-class instruction's index addition
crosses a page, one more for a taken branch, and another one when its target is on another page than pc_after. -/
def Obligations.CycleCountOfAnInstruction : Prop :=
  ∀ (i : Instr) (s t : State), exec i s = .next t → (∀ b, i ≠ .unmapped b) →
    t.cycles = i.baseCycles +
      (if (resolve i.operand s).crossed = true ∧ isReadClass i = true then 1 else 0) +
      bit (branchTaken i s) +
      (if branchTaken i s = true ∧ t.pc.toNat / 256 ≠ s.pc.toNat / 256 then 1 else 0) ∧
    2 ≤ t.cycles ∧ t.cycles ≤ 7

/-- No functional rule depends on the cycle count (R1010): with another count before it, an instruction does the same, the oracle
being the same (log 4, a design choice, unsafe for a claim about two runs). -/
def Obligations.NoInstructionReadsTheCycleCount : Prop :=
  ∀ (i : Instr) (s : State) (n : Nat), exec i { s with cycles := n } = exec i s

/-- The source's timing property (R1013): of two runs of one operation in one indexed absolute mode, whatever their bases, their
index registers and the rest of their states, the one that crosses a page costs exactly one more cycle if the operation is
read-class; a store costs the same. -/
def Obligations.CrossingCostsReadsOneCycleAndStoresNone : Prop :=
  ∀ (i i' : Instr) (s s' t t' : State), exec i s = .next t → exec i' s' = .next t' →
    i'.op = i.op → i'.operand.mode = i.operand.mode → i.operand.mode ∈ [.absoluteX, .absoluteY] →
    (resolve i.operand s).crossed = true → (resolve i'.operand s').crossed = false →
    (isReadClass i = true → t.cycles = t'.cycles + 1) ∧
    (IsOneOf i [.sta, .stx, .sty] → t.cycles = t'.cycles)

/-- A run that ends has reached its `END_OF_RUN`, by transactions none of which stopped or raised an event, and not before; the
number that the predicate gets is that of the steps among them, dispatches not counted (R1030, R909, R17; log 18). -/
def Obligations.EndedRunsMeetTheirEndAndAreClean : Prop :=
  ∀ (endOfRun : State → Nat → Bool) (fuel : Nat) (s t : State) (n : Nat),
    Safety.runUntil endOfRun fuel 0 s = .ended t n →
    ∃ m, m ≤ fuel ∧ Sys2Proof.core.run m s = .next t ∧ n = stepsAmong m s ∧ endOfRun t n = true ∧
      (0 < m → t.event = none) ∧
      ∀ k, k < m → ∃ u : State, Sys2Proof.core.run k s = .next u ∧ endOfRun u (stepsAmong k s) = false ∧
        (0 < k → u.event = none)
end

