-- ==== Sys2Proof/Laws/Decode.lean ====
section
/-! SUPPORT. The opcode table as data: what finding a row says, and that its bytes and its pairs are distinct (R307). -/

namespace Sys2Proof.Laws

/-- The row of a byte is a row of the table with that byte. -/
theorem rowOfByte_some {b : Byte} {r : Row} (h : rowOfByte b = some r) : r ∈ opcodeTable ∧ r.opcode = b := by
  refine ⟨List.mem_of_find?_eq_some h, ?_⟩
  simpa using List.find?_some h

/-- The row of a pair is a row of the table with that pair. -/
theorem rowOf_some {op : Op} {m : Mode} {r : Row} (h : rowOf op m = some r) :
    r ∈ opcodeTable ∧ r.op = op ∧ r.mode = m := by
  refine ⟨List.mem_of_find?_eq_some h, ?_⟩
  simpa using List.find?_some h

/-- Every row of the table is found by its byte. -/
theorem rowOfByte_row : ∀ r ∈ opcodeTable, rowOfByte r.opcode = some r := by decide +kernel

/-- Every row of the table is found by its pair. -/
theorem rowOf_row : ∀ r ∈ opcodeTable, rowOf r.op r.mode = some r := by decide +kernel

/-- The word of two bytes as a number, `h*256 + l` (R302). -/
theorem wordOf_toNat (l h : Byte) : (wordOf l h).toNat = h.toNat * 256 + l.toNat := by
  have e : (wordOf l h).toNat = h.toNat <<< 8 ||| l.toNat := BitVec.toNat_append h l
  rw [e, ← Nat.shiftLeft_add_eq_or_of_lt l.isLt, Nat.shiftLeft_eq]

/-- The low byte of a word as a number. -/
theorem lowByte_toNat (w : Word) : (lowByte w).toNat = w.toNat % 256 := by simp [lowByte]

/-- The high byte of a word as a number. -/
theorem highByte_toNat (w : Word) : (highByte w).toNat = w.toNat / 256 := by
  have h := w.isLt
  simp only [highByte, BitVec.toNat_setWidth, BitVec.toNat_ushiftRight, Nat.shiftRight_eq_div_pow]
  omega

@[simp] theorem lowByte_wordOf (l h : Byte) : lowByte (wordOf l h) = l := by
  have := l.isLt
  apply BitVec.eq_of_toNat_eq
  rw [lowByte_toNat, wordOf_toNat]
  omega

@[simp] theorem highByte_wordOf (l h : Byte) : highByte (wordOf l h) = h := by
  have := l.isLt
  apply BitVec.eq_of_toNat_eq
  rw [highByte_toNat, wordOf_toNat]
  omega

@[simp] theorem wordOf_bytes (w : Word) : wordOf (lowByte w) (highByte w) = w := by
  apply BitVec.eq_of_toNat_eq
  rw [wordOf_toNat, lowByte_toNat, highByte_toNat]
  omega

/-- The operand of a mode has that mode. -/
@[simp] theorem mode_operand (m : Mode) (b1 b2 : Byte) : (m.operand b1 b2).mode = m := by cases m <;> rfl

/-- An operand has as many bytes as its mode's format carries (R301). -/
@[simp] theorem operand_bytes_length (o : Operand) : o.bytes.length = o.mode.operandBytes := by cases o <;> rfl

/-! ## Instructions and their rows -/

/-- An instruction is its operation with its operand. -/
theorem instr_of_op {i : Instr} {op : Op} (h : i.op = some op) : op.instr i.operand = i := by
  cases i <;> simp only [Instr.op, Option.some.injEq, reduceCtorEq] at h <;> subst h <;> rfl

/-- The bytes without a row are the ones R309 lists. -/
theorem rowOfByte_none : ∀ b : Byte, unmappedBytes.contains b = true ↔ rowOfByte b = none := by decide +kernel

theorem rowOf_of_mem {op : Op} {l : List Mode} {m : Mode} (h : ∀ m ∈ l, (rowOf op m).isSome = true)
    (hm : l.contains m = true) : ∃ r, rowOf op m = some r :=
  Option.isSome_iff_exists.1 (h m (by simpa using hm))

/-- A well-formed instruction is the placeholder with an unmapped byte, or has an operation and a row (R307, R309). -/
theorem wellFormed_row {i : Instr} (h : i.wellFormed = true) :
    (∃ b, i = .unmapped b ∧ unmappedBytes.contains b = true) ∨
      ∃ op r, i.op = some op ∧ rowOf op i.operand.mode = some r := by
  cases i
  case unmapped b => exact .inl ⟨b, rfl, h⟩
  all_goals
    refine .inr ?_
    simp only [Instr.op, Instr.operand, Option.some.injEq, exists_and_left, exists_eq_left']
    first
      | exact rowOf_of_mem (by decide +kernel) h
      | exact rowOf_of_mem (l := [.implied]) (by decide +kernel) rfl

/-- The bytes of an instruction with a row. -/
theorem encode_of_row {i : Instr} {op : Op} {r : Row} (ho : i.op = some op)
    (hr : rowOf op i.operand.mode = some r) : encode i = r.opcode :: i.operand.bytes := by
  have hrow : i.row = some r := by simp only [Instr.row, ho, hr]
  cases i
  case unmapped b => cases ho
  all_goals simp only [encode, hrow]

/-- The operation of a row with an operand of its mode is a well-formed instruction with that operation and operand. -/
theorem row_instr {r : Row} (hr : r ∈ opcodeTable) {o : Operand} (ho : o.mode = r.mode) :
    (r.op.instr o).wellFormed = true ∧ (r.op.instr o).operand = o ∧ (r.op.instr o).op = some r.op := by
  have table : ∀ r ∈ opcodeTable, (r.op.instr (r.mode.operand 0 0)).wellFormed = true ∧
      (r.op.instr (r.mode.operand 0 0)).operand.mode = r.mode := by decide +kernel
  have key := table r hr
  rw [← ho] at key
  revert key
  cases r.op <;> cases o <;>
    simp +decide [Op.instr, Instr.wellFormed, Instr.operand, Operand.mode, Mode.operand, Instr.op]

/-- How many operand bytes can follow an opcode byte (R301). -/
theorem operandCount_le (b : Byte) : operandCount b ≤ 2 := by
  unfold operandCount
  split
  · next r _ => cases r.mode <;> decide
  · decide

/-- What the bytes of an opcode and two more decode to is well formed, and encodes as that opcode and as many of them as its
mode carries. -/
theorem decodeBytes_encode (b b1 b2 : Byte) :
    (decodeBytes b b1 b2).wellFormed = true ∧
      encode (decodeBytes b b1 b2) = b :: [b1, b2].take (operandCount b) := by
  unfold decodeBytes operandCount
  cases h : rowOfByte b with
  | none => exact ⟨(rowOfByte_none b).2 h, rfl⟩
  | some r =>
    obtain ⟨hm, rfl⟩ := rowOfByte_some h
    obtain ⟨h1, h2, h3⟩ := row_instr hm (o := r.mode.operand b1 b2) (mode_operand _ _ _)
    refine ⟨h1, ?_⟩
    rw [encode_of_row (r := r) h3 (by rw [h2, mode_operand]; exact rowOf_row r hm), h2]
    show _ = r.opcode :: [b1, b2].take r.mode.operandBytes
    generalize r.mode = m
    cases m <;> simp [Mode.operand, Operand.bytes, Mode.operandBytes]

end Sys2Proof.Laws
end

