-- ==== Sys2Proof/Laws/Memory.lean ====
section
/-! SUPPORT. The laws of memory: a read after a write, and the canonical form kept by a write. -/

namespace Sys2Proof.Laws

open Sys2Proof.Machine

/-- An address below every entry reads as an unlisted one. -/
theorem read_below {m : Memory} {lo a : Nat} (h : Memory.wfAbove lo m = true) (ha : a < lo) :
    Memory.read m a = Memory.unlisted := by
  induction m generalizing lo with
  | nil => rfl
  | cons e m ih =>
    obtain ⟨k, b⟩ := e
    simp only [Memory.wfAbove, Bool.and_eq_true, decide_eq_true_eq] at h
    have hk : k ≠ a := by omega
    simp only [Memory.read, if_neg hk]
    exact ih h.2 (by omega)

/-- A list in canonical form above a bound is so above a lower one. -/
theorem wfAbove_mono {m : Memory} {lo lo' : Nat} (h : Memory.wfAbove lo m = true) (hle : lo' ≤ lo) :
    Memory.wfAbove lo' m = true := by
  cases m with
  | nil => rfl
  | cons e m =>
    simp only [Memory.wfAbove, Bool.and_eq_true, decide_eq_true_eq] at h ⊢
    exact ⟨⟨by omega, h.1.2⟩, h.2⟩

theorem read_cons_same {m : Memory} {a lo : Nat} {v : Byte} (h : Memory.wfAbove lo m = true) (ha : a < lo) :
    Memory.read (Memory.cons a v m) a = v := by
  unfold Memory.cons
  split
  · next hv => rw [hv, read_below h ha]
  · simp [Memory.read]

theorem read_cons_other {m : Memory} {a b : Nat} {v : Byte} (hab : a ≠ b) :
    Memory.read (Memory.cons a v m) b = Memory.read m b := by
  unfold Memory.cons
  split
  · rfl
  · simp [Memory.read, hab]

/-- A read of the address just written gives the byte written. -/
theorem read_write_same {m : Memory} {lo a : Nat} {v : Byte} (h : Memory.wfAbove lo m = true) :
    Memory.read (Memory.write m a v) a = v := by
  induction m generalizing lo with
  | nil => exact read_cons_same (lo := a + 1) rfl (by omega)
  | cons e m ih =>
    obtain ⟨k, b⟩ := e
    have h' := h
    simp only [Memory.wfAbove, Bool.and_eq_true, decide_eq_true_eq] at h
    simp only [Memory.write]
    split
    · next hlt =>
      refine read_cons_same (lo := k) ?_ hlt
      simp only [Memory.wfAbove, Bool.and_eq_true, decide_eq_true_eq]
      exact ⟨⟨Nat.le_refl k, h.1.2⟩, h.2⟩
    · split
      · next heq => exact read_cons_same h.2 (by omega)
      · next hne => simp [Memory.read, Ne.symm hne, ih h.2]

/-- A write leaves every other address alone. -/
theorem read_write_other {m : Memory} {a b : Nat} {v : Byte} (hab : a ≠ b) :
    Memory.read (Memory.write m a v) b = Memory.read m b := by
  induction m with
  | nil => exact read_cons_other hab
  | cons e m ih =>
    obtain ⟨k, c⟩ := e
    simp only [Memory.write]
    split
    · exact read_cons_other hab
    · split
      · next heq => rw [read_cons_other hab]; simp [Memory.read, ← heq, hab]
      · simp only [Memory.read, ih]

theorem cons_wfAbove {m : Memory} {lo a : Nat} {v : Byte} (h : Memory.wfAbove (a + 1) m = true)
    (hlo : lo ≤ a) (ha : a < 65536) : Memory.wfAbove lo (Memory.cons a v m) = true := by
  unfold Memory.cons
  split
  · exact wfAbove_mono h (by omega)
  · next hv =>
    simp only [Memory.wfAbove, Bool.and_eq_true, decide_eq_true_eq]
    exact ⟨⟨hlo, ha, hv⟩, h⟩

/-- A write keeps the canonical form. -/
theorem write_wfAbove {m : Memory} {lo a : Nat} {v : Byte} (h : Memory.wfAbove lo m = true)
    (hlo : lo ≤ a) (ha : a < 65536) : Memory.wfAbove lo (Memory.write m a v) = true := by
  induction m generalizing lo with
  | nil => exact cons_wfAbove rfl hlo ha
  | cons e m ih =>
    obtain ⟨k, b⟩ := e
    simp only [Memory.wfAbove, Bool.and_eq_true, decide_eq_true_eq] at h
    simp only [Memory.write]
    split
    · next hlt =>
      refine cons_wfAbove ?_ hlo ha
      simp only [Memory.wfAbove, Bool.and_eq_true, decide_eq_true_eq]
      exact ⟨⟨by omega, h.1.2⟩, h.2⟩
    · split
      · next heq => subst heq; exact cons_wfAbove h.2 hlo ha
      · simp only [Memory.wfAbove, Bool.and_eq_true, decide_eq_true_eq]
        exact ⟨h.1, ih h.2 (by omega)⟩

/-- A write at a bus address keeps the canonical form of the whole memory. -/
theorem write_wf {m : Memory} {a : Word} {v : Byte} (h : Memory.wf m = true) :
    Memory.wf (Memory.write m a.toNat v) = true :=
  write_wfAbove h (Nat.zero_le _) a.isLt

end Sys2Proof.Laws
end

