-- ==== Sys2Proof/Laws/State.lean ====
section
/-! SUPPORT. What each named update of the state leaves alone, one lemma per field, and what it writes where that is one
field of one value. They hold by unfolding and let no later proof unfold an update. -/

namespace Sys2Proof.Laws

open Sys2Proof.Machine

/-! A bus read changes the access list. -/

@[simp] theorem busRead_pc (a : Word) (s : State) : ((busRead a s).2).pc = s.pc := rfl
@[simp] theorem busRead_a (a : Word) (s : State) : ((busRead a s).2).a = s.a := rfl
@[simp] theorem busRead_x (a : Word) (s : State) : ((busRead a s).2).x = s.x := rfl
@[simp] theorem busRead_y (a : Word) (s : State) : ((busRead a s).2).y = s.y := rfl
@[simp] theorem busRead_sp (a : Word) (s : State) : ((busRead a s).2).sp = s.sp := rfl
@[simp] theorem busRead_p (a : Word) (s : State) : ((busRead a s).2).p = s.p := rfl
@[simp] theorem busRead_resetDone (a : Word) (s : State) : ((busRead a s).2).resetDone = s.resetDone := rfl
@[simp] theorem busRead_mem (a : Word) (s : State) : ((busRead a s).2).mem = s.mem := rfl
@[simp] theorem busRead_plain (a : Word) (s : State) : ((busRead a s).2).plain = s.plain := rfl
@[simp] theorem busRead_past (a : Word) (s : State) : ((busRead a s).2).past = s.past := rfl
@[simp] theorem busRead_requests (a : Word) (s : State) : ((busRead a s).2).requests = s.requests := rfl
@[simp] theorem busRead_cycles (a : Word) (s : State) : ((busRead a s).2).cycles = s.cycles := rfl
@[simp] theorem busRead_event (a : Word) (s : State) : ((busRead a s).2).event = s.event := rfl

@[simp] theorem busRead_accesses (a : Word) (s : State) :
    (busRead a s).2.accesses = s.accesses ++ [.read a (busValue a s) false] := rfl
@[simp] theorem busRead_value (a : Word) (s : State) : (busRead a s).1 = busValue a s := rfl

/-! A bus write changes the access list and plain memory. -/

@[simp] theorem busWrite_pc (a : Word) (v : Byte) (s : State) : (busWrite a v s).pc = s.pc := rfl
@[simp] theorem busWrite_a (a : Word) (v : Byte) (s : State) : (busWrite a v s).a = s.a := rfl
@[simp] theorem busWrite_x (a : Word) (v : Byte) (s : State) : (busWrite a v s).x = s.x := rfl
@[simp] theorem busWrite_y (a : Word) (v : Byte) (s : State) : (busWrite a v s).y = s.y := rfl
@[simp] theorem busWrite_sp (a : Word) (v : Byte) (s : State) : (busWrite a v s).sp = s.sp := rfl
@[simp] theorem busWrite_p (a : Word) (v : Byte) (s : State) : (busWrite a v s).p = s.p := rfl
@[simp] theorem busWrite_resetDone (a : Word) (v : Byte) (s : State) : (busWrite a v s).resetDone = s.resetDone := rfl
@[simp] theorem busWrite_plain (a : Word) (v : Byte) (s : State) : (busWrite a v s).plain = s.plain := rfl
@[simp] theorem busWrite_past (a : Word) (v : Byte) (s : State) : (busWrite a v s).past = s.past := rfl
@[simp] theorem busWrite_requests (a : Word) (v : Byte) (s : State) : (busWrite a v s).requests = s.requests := rfl
@[simp] theorem busWrite_cycles (a : Word) (v : Byte) (s : State) : (busWrite a v s).cycles = s.cycles := rfl
@[simp] theorem busWrite_event (a : Word) (v : Byte) (s : State) : (busWrite a v s).event = s.event := rfl

@[simp] theorem busWrite_accesses (a : Word) (v : Byte) (s : State) :
    (busWrite a v s).accesses = s.accesses ++ [.write a v false] := rfl
theorem busWrite_mem (a : Word) (v : Byte) (s : State) :
    (busWrite a v s).mem = if s.isPlain a then Memory.write s.mem a.toNat v else s.mem := rfl

/-! A fetch also moves PC. -/

@[simp] theorem fetchByte_a (s : State) : ((fetchByte s).2).a = s.a := rfl
@[simp] theorem fetchByte_x (s : State) : ((fetchByte s).2).x = s.x := rfl
@[simp] theorem fetchByte_y (s : State) : ((fetchByte s).2).y = s.y := rfl
@[simp] theorem fetchByte_sp (s : State) : ((fetchByte s).2).sp = s.sp := rfl
@[simp] theorem fetchByte_p (s : State) : ((fetchByte s).2).p = s.p := rfl
@[simp] theorem fetchByte_resetDone (s : State) : ((fetchByte s).2).resetDone = s.resetDone := rfl
@[simp] theorem fetchByte_mem (s : State) : ((fetchByte s).2).mem = s.mem := rfl
@[simp] theorem fetchByte_plain (s : State) : ((fetchByte s).2).plain = s.plain := rfl
@[simp] theorem fetchByte_past (s : State) : ((fetchByte s).2).past = s.past := rfl
@[simp] theorem fetchByte_requests (s : State) : ((fetchByte s).2).requests = s.requests := rfl
@[simp] theorem fetchByte_cycles (s : State) : ((fetchByte s).2).cycles = s.cycles := rfl
@[simp] theorem fetchByte_event (s : State) : ((fetchByte s).2).event = s.event := rfl

@[simp] theorem fetchByte_pc (s : State) : (fetchByte s).2.pc = s.pc + 1 := rfl
@[simp] theorem fetchByte_value (s : State) : (fetchByte s).1 = busValue s.pc s := rfl
@[simp] theorem fetchByte_accesses (s : State) :
    (fetchByte s).2.accesses = s.accesses ++ [.read s.pc (busValue s.pc s) false] := rfl

/-! A push changes S, the access list and one byte. -/

@[simp] theorem push_pc (v : Byte) (s : State) : (push v s).pc = s.pc := rfl
@[simp] theorem push_a (v : Byte) (s : State) : (push v s).a = s.a := rfl
@[simp] theorem push_x (v : Byte) (s : State) : (push v s).x = s.x := rfl
@[simp] theorem push_y (v : Byte) (s : State) : (push v s).y = s.y := rfl
@[simp] theorem push_p (v : Byte) (s : State) : (push v s).p = s.p := rfl
@[simp] theorem push_resetDone (v : Byte) (s : State) : (push v s).resetDone = s.resetDone := rfl
@[simp] theorem push_plain (v : Byte) (s : State) : (push v s).plain = s.plain := rfl
@[simp] theorem push_past (v : Byte) (s : State) : (push v s).past = s.past := rfl
@[simp] theorem push_requests (v : Byte) (s : State) : (push v s).requests = s.requests := rfl
@[simp] theorem push_cycles (v : Byte) (s : State) : (push v s).cycles = s.cycles := rfl
@[simp] theorem push_event (v : Byte) (s : State) : (push v s).event = s.event := rfl

@[simp] theorem push_sp (v : Byte) (s : State) : (push v s).sp = s.sp - 1 := rfl
@[simp] theorem push_accesses (v : Byte) (s : State) :
    (push v s).accesses = s.accesses ++ [.write (stackAddress s.sp) v false] := rfl
theorem push_mem (v : Byte) (s : State) : (push v s).mem = (busWrite (stackAddress s.sp) v s).mem := rfl

/-! A pop changes S and the access list. -/

@[simp] theorem pop_pc (s : State) : ((pop s).2).pc = s.pc := rfl
@[simp] theorem pop_a (s : State) : ((pop s).2).a = s.a := rfl
@[simp] theorem pop_x (s : State) : ((pop s).2).x = s.x := rfl
@[simp] theorem pop_y (s : State) : ((pop s).2).y = s.y := rfl
@[simp] theorem pop_p (s : State) : ((pop s).2).p = s.p := rfl
@[simp] theorem pop_resetDone (s : State) : ((pop s).2).resetDone = s.resetDone := rfl
@[simp] theorem pop_mem (s : State) : ((pop s).2).mem = s.mem := rfl
@[simp] theorem pop_plain (s : State) : ((pop s).2).plain = s.plain := rfl
@[simp] theorem pop_past (s : State) : ((pop s).2).past = s.past := rfl
@[simp] theorem pop_requests (s : State) : ((pop s).2).requests = s.requests := rfl
@[simp] theorem pop_cycles (s : State) : ((pop s).2).cycles = s.cycles := rfl
@[simp] theorem pop_event (s : State) : ((pop s).2).event = s.event := rfl

@[simp] theorem pop_sp (s : State) : (pop s).2.sp = s.sp + 1 := rfl
@[simp] theorem pop_value (s : State) : (pop s).1 = busValue (stackAddress (s.sp + 1)) s := rfl
@[simp] theorem pop_accesses (s : State) : (pop s).2.accesses =
    s.accesses ++ [.read (stackAddress (s.sp + 1)) (busValue (stackAddress (s.sp + 1)) s) false] := rfl

/-! Reading a word is two bus reads. -/

@[simp] theorem readWord_pc (l h : Word) (s : State) : ((readWord l h s).2).pc = s.pc := rfl
@[simp] theorem readWord_a (l h : Word) (s : State) : ((readWord l h s).2).a = s.a := rfl
@[simp] theorem readWord_x (l h : Word) (s : State) : ((readWord l h s).2).x = s.x := rfl
@[simp] theorem readWord_y (l h : Word) (s : State) : ((readWord l h s).2).y = s.y := rfl
@[simp] theorem readWord_sp (l h : Word) (s : State) : ((readWord l h s).2).sp = s.sp := rfl
@[simp] theorem readWord_p (l h : Word) (s : State) : ((readWord l h s).2).p = s.p := rfl
@[simp] theorem readWord_resetDone (l h : Word) (s : State) : ((readWord l h s).2).resetDone = s.resetDone := rfl
@[simp] theorem readWord_mem (l h : Word) (s : State) : ((readWord l h s).2).mem = s.mem := rfl
@[simp] theorem readWord_plain (l h : Word) (s : State) : ((readWord l h s).2).plain = s.plain := rfl
@[simp] theorem readWord_past (l h : Word) (s : State) : ((readWord l h s).2).past = s.past := rfl
@[simp] theorem readWord_requests (l h : Word) (s : State) : ((readWord l h s).2).requests = s.requests := rfl
@[simp] theorem readWord_cycles (l h : Word) (s : State) : ((readWord l h s).2).cycles = s.cycles := rfl
@[simp] theorem readWord_event (l h : Word) (s : State) : ((readWord l h s).2).event = s.event := rfl

/-! Loading a vector also writes PC. -/

@[simp] theorem loadVector_a (vec : Word) (s : State) : (loadVector vec s).a = s.a := rfl
@[simp] theorem loadVector_x (vec : Word) (s : State) : (loadVector vec s).x = s.x := rfl
@[simp] theorem loadVector_y (vec : Word) (s : State) : (loadVector vec s).y = s.y := rfl
@[simp] theorem loadVector_sp (vec : Word) (s : State) : (loadVector vec s).sp = s.sp := rfl
@[simp] theorem loadVector_p (vec : Word) (s : State) : (loadVector vec s).p = s.p := rfl
@[simp] theorem loadVector_resetDone (vec : Word) (s : State) : (loadVector vec s).resetDone = s.resetDone := rfl
@[simp] theorem loadVector_mem (vec : Word) (s : State) : (loadVector vec s).mem = s.mem := rfl
@[simp] theorem loadVector_plain (vec : Word) (s : State) : (loadVector vec s).plain = s.plain := rfl
@[simp] theorem loadVector_past (vec : Word) (s : State) : (loadVector vec s).past = s.past := rfl
@[simp] theorem loadVector_requests (vec : Word) (s : State) : (loadVector vec s).requests = s.requests := rfl
@[simp] theorem loadVector_cycles (vec : Word) (s : State) : (loadVector vec s).cycles = s.cycles := rfl
@[simp] theorem loadVector_event (vec : Word) (s : State) : (loadVector vec s).event = s.event := rfl

/-! The start of a transaction puts the last one away, and clears the access list and the event. -/

@[simp] theorem beginTransaction_pc (s : State) : (beginTransaction s).pc = s.pc := rfl
@[simp] theorem beginTransaction_a (s : State) : (beginTransaction s).a = s.a := rfl
@[simp] theorem beginTransaction_x (s : State) : (beginTransaction s).x = s.x := rfl
@[simp] theorem beginTransaction_y (s : State) : (beginTransaction s).y = s.y := rfl
@[simp] theorem beginTransaction_sp (s : State) : (beginTransaction s).sp = s.sp := rfl
@[simp] theorem beginTransaction_p (s : State) : (beginTransaction s).p = s.p := rfl
@[simp] theorem beginTransaction_resetDone (s : State) : (beginTransaction s).resetDone = s.resetDone := rfl
@[simp] theorem beginTransaction_mem (s : State) : (beginTransaction s).mem = s.mem := rfl
@[simp] theorem beginTransaction_plain (s : State) : (beginTransaction s).plain = s.plain := rfl
@[simp] theorem beginTransaction_requests (s : State) : (beginTransaction s).requests = s.requests := rfl
@[simp] theorem beginTransaction_cycles (s : State) : (beginTransaction s).cycles = s.cycles := rfl

@[simp] theorem beginTransaction_past (s : State) :
    (beginTransaction s).past = s.past ++ [⟨s.accesses, s.cycles⟩] := rfl
@[simp] theorem beginTransaction_accesses (s : State) : (beginTransaction s).accesses = [] := rfl
@[simp] theorem beginTransaction_event (s : State) : (beginTransaction s).event = none := rfl

/-! The write of A and the flags. -/

@[simp] theorem setA_pc (r : Byte × Status) (s : State) : (setA r s).pc = s.pc := rfl
@[simp] theorem setA_x (r : Byte × Status) (s : State) : (setA r s).x = s.x := rfl
@[simp] theorem setA_y (r : Byte × Status) (s : State) : (setA r s).y = s.y := rfl
@[simp] theorem setA_sp (r : Byte × Status) (s : State) : (setA r s).sp = s.sp := rfl
@[simp] theorem setA_resetDone (r : Byte × Status) (s : State) : (setA r s).resetDone = s.resetDone := rfl
@[simp] theorem setA_mem (r : Byte × Status) (s : State) : (setA r s).mem = s.mem := rfl
@[simp] theorem setA_plain (r : Byte × Status) (s : State) : (setA r s).plain = s.plain := rfl
@[simp] theorem setA_past (r : Byte × Status) (s : State) : (setA r s).past = s.past := rfl
@[simp] theorem setA_requests (r : Byte × Status) (s : State) : (setA r s).requests = s.requests := rfl
@[simp] theorem setA_accesses (r : Byte × Status) (s : State) : (setA r s).accesses = s.accesses := rfl
@[simp] theorem setA_cycles (r : Byte × Status) (s : State) : (setA r s).cycles = s.cycles := rfl
@[simp] theorem setA_event (r : Byte × Status) (s : State) : (setA r s).event = s.event := rfl

@[simp] theorem setA_a (r : Byte × Status) (s : State) : (setA r s).a = r.1 := rfl
@[simp] theorem setA_p (r : Byte × Status) (s : State) : (setA r s).p = r.2 := rfl

/-! The write of X and the flags. -/

@[simp] theorem setX_pc (r : Byte × Status) (s : State) : (setX r s).pc = s.pc := rfl
@[simp] theorem setX_a (r : Byte × Status) (s : State) : (setX r s).a = s.a := rfl
@[simp] theorem setX_y (r : Byte × Status) (s : State) : (setX r s).y = s.y := rfl
@[simp] theorem setX_sp (r : Byte × Status) (s : State) : (setX r s).sp = s.sp := rfl
@[simp] theorem setX_resetDone (r : Byte × Status) (s : State) : (setX r s).resetDone = s.resetDone := rfl
@[simp] theorem setX_mem (r : Byte × Status) (s : State) : (setX r s).mem = s.mem := rfl
@[simp] theorem setX_plain (r : Byte × Status) (s : State) : (setX r s).plain = s.plain := rfl
@[simp] theorem setX_past (r : Byte × Status) (s : State) : (setX r s).past = s.past := rfl
@[simp] theorem setX_requests (r : Byte × Status) (s : State) : (setX r s).requests = s.requests := rfl
@[simp] theorem setX_accesses (r : Byte × Status) (s : State) : (setX r s).accesses = s.accesses := rfl
@[simp] theorem setX_cycles (r : Byte × Status) (s : State) : (setX r s).cycles = s.cycles := rfl
@[simp] theorem setX_event (r : Byte × Status) (s : State) : (setX r s).event = s.event := rfl

@[simp] theorem setX_x (r : Byte × Status) (s : State) : (setX r s).x = r.1 := rfl
@[simp] theorem setX_p (r : Byte × Status) (s : State) : (setX r s).p = r.2 := rfl

/-! The write of Y and the flags. -/

@[simp] theorem setY_pc (r : Byte × Status) (s : State) : (setY r s).pc = s.pc := rfl
@[simp] theorem setY_a (r : Byte × Status) (s : State) : (setY r s).a = s.a := rfl
@[simp] theorem setY_x (r : Byte × Status) (s : State) : (setY r s).x = s.x := rfl
@[simp] theorem setY_sp (r : Byte × Status) (s : State) : (setY r s).sp = s.sp := rfl
@[simp] theorem setY_resetDone (r : Byte × Status) (s : State) : (setY r s).resetDone = s.resetDone := rfl
@[simp] theorem setY_mem (r : Byte × Status) (s : State) : (setY r s).mem = s.mem := rfl
@[simp] theorem setY_plain (r : Byte × Status) (s : State) : (setY r s).plain = s.plain := rfl
@[simp] theorem setY_past (r : Byte × Status) (s : State) : (setY r s).past = s.past := rfl
@[simp] theorem setY_requests (r : Byte × Status) (s : State) : (setY r s).requests = s.requests := rfl
@[simp] theorem setY_accesses (r : Byte × Status) (s : State) : (setY r s).accesses = s.accesses := rfl
@[simp] theorem setY_cycles (r : Byte × Status) (s : State) : (setY r s).cycles = s.cycles := rfl
@[simp] theorem setY_event (r : Byte × Status) (s : State) : (setY r s).event = s.event := rfl

@[simp] theorem setY_y (r : Byte × Status) (s : State) : (setY r s).y = r.1 := rfl
@[simp] theorem setY_p (r : Byte × Status) (s : State) : (setY r s).p = r.2 := rfl

/-! A change of the flags. -/

@[simp] theorem onFlags_pc (f : Status → Status) (s : State) : (onFlags f s).pc = s.pc := rfl
@[simp] theorem onFlags_a (f : Status → Status) (s : State) : (onFlags f s).a = s.a := rfl
@[simp] theorem onFlags_x (f : Status → Status) (s : State) : (onFlags f s).x = s.x := rfl
@[simp] theorem onFlags_y (f : Status → Status) (s : State) : (onFlags f s).y = s.y := rfl
@[simp] theorem onFlags_sp (f : Status → Status) (s : State) : (onFlags f s).sp = s.sp := rfl
@[simp] theorem onFlags_resetDone (f : Status → Status) (s : State) : (onFlags f s).resetDone = s.resetDone := rfl
@[simp] theorem onFlags_mem (f : Status → Status) (s : State) : (onFlags f s).mem = s.mem := rfl
@[simp] theorem onFlags_plain (f : Status → Status) (s : State) : (onFlags f s).plain = s.plain := rfl
@[simp] theorem onFlags_past (f : Status → Status) (s : State) : (onFlags f s).past = s.past := rfl
@[simp] theorem onFlags_requests (f : Status → Status) (s : State) : (onFlags f s).requests = s.requests := rfl
@[simp] theorem onFlags_accesses (f : Status → Status) (s : State) : (onFlags f s).accesses = s.accesses := rfl
@[simp] theorem onFlags_cycles (f : Status → Status) (s : State) : (onFlags f s).cycles = s.cycles := rfl
@[simp] theorem onFlags_event (f : Status → Status) (s : State) : (onFlags f s).event = s.event := rfl

@[simp] theorem onFlags_p (f : Status → Status) (s : State) : (onFlags f s).p = f s.p := rfl

/-! A byte placed from outside. -/

@[simp] theorem place_pc (s : State) (a : Word) (v : Byte) : (s.place a v).pc = s.pc := rfl
@[simp] theorem place_a (s : State) (a : Word) (v : Byte) : (s.place a v).a = s.a := rfl
@[simp] theorem place_x (s : State) (a : Word) (v : Byte) : (s.place a v).x = s.x := rfl
@[simp] theorem place_y (s : State) (a : Word) (v : Byte) : (s.place a v).y = s.y := rfl
@[simp] theorem place_sp (s : State) (a : Word) (v : Byte) : (s.place a v).sp = s.sp := rfl
@[simp] theorem place_p (s : State) (a : Word) (v : Byte) : (s.place a v).p = s.p := rfl
@[simp] theorem place_resetDone (s : State) (a : Word) (v : Byte) : (s.place a v).resetDone = s.resetDone := rfl
@[simp] theorem place_past (s : State) (a : Word) (v : Byte) : (s.place a v).past = s.past := rfl
@[simp] theorem place_requests (s : State) (a : Word) (v : Byte) : (s.place a v).requests = s.requests := rfl
@[simp] theorem place_accesses (s : State) (a : Word) (v : Byte) : (s.place a v).accesses = s.accesses := rfl
@[simp] theorem place_cycles (s : State) (a : Word) (v : Byte) : (s.place a v).cycles = s.cycles := rfl
@[simp] theorem place_event (s : State) (a : Word) (v : Byte) : (s.place a v).event = s.event := rfl

/-! The addresses that are plain memory stay the same. -/

@[simp] theorem busRead_isPlain (a b : Word) (s : State) : (busRead a s).2.isPlain b = s.isPlain b := rfl
@[simp] theorem busWrite_isPlain (a b : Word) (v : Byte) (s : State) : (busWrite a v s).isPlain b = s.isPlain b := rfl
@[simp] theorem fetchByte_isPlain (b : Word) (s : State) : (fetchByte s).2.isPlain b = s.isPlain b := rfl
@[simp] theorem push_isPlain (b : Word) (v : Byte) (s : State) : (push v s).isPlain b = s.isPlain b := rfl
@[simp] theorem pop_isPlain (b : Word) (s : State) : (pop s).2.isPlain b = s.isPlain b := rfl
@[simp] theorem readWord_isPlain (l h b : Word) (s : State) : (readWord l h s).2.isPlain b = s.isPlain b := rfl
@[simp] theorem beginTransaction_isPlain (b : Word) (s : State) : (beginTransaction s).isPlain b = s.isPlain b := rfl

/-! Reads leave every byte of plain memory. -/

@[simp] theorem busRead_peek (a b : Word) (s : State) : (busRead a s).2.peek b = s.peek b := rfl
@[simp] theorem fetchByte_peek (b : Word) (s : State) : (fetchByte s).2.peek b = s.peek b := rfl
@[simp] theorem pop_peek (b : Word) (s : State) : (pop s).2.peek b = s.peek b := rfl
@[simp] theorem readWord_peek (l h b : Word) (s : State) : (readWord l h s).2.peek b = s.peek b := rfl

end Sys2Proof.Laws
end

