-- ==== Sys2Proof/Laws/Ops.lean ====
section
/-! SUPPORT. What the shared operations do, once: bus accesses and the stack unit through the read of one byte (`peek`), the
canonical form of memory, the resolver's frame, and when a shape of instruction completes. -/

namespace Sys2Proof.Laws

open Sys2Proof.Machine

/-! ## One byte of memory -/

theorem peek_plain {s : State} {a : Word} (h : s.isPlain a = true) :
    s.peek a = some (Memory.read s.mem a.toNat) := by simp [State.peek, h]

/-- A plain address is read as memory has it. -/
theorem busValue_of_peek {s : State} {a : Word} {b : Byte} (h : s.peek a = some b) : busValue a s = b := by
  unfold State.peek at h
  unfold busValue
  split at h
  · next hw => simpa [hw] using h
  · cases h

/-- Elsewhere the oracle answers, from what it has seen. -/
theorem busValue_oracle {s : State} {a : Word} (h : s.isPlain a = false) :
    busValue a s = Config.busAnswer s.past s.accesses a := by simp [busValue, h]

/-- A write elsewhere leaves plain memory whole. -/
theorem busWrite_oracle_mem {s : State} {a : Word} {v : Byte} (h : s.isPlain a = false) :
    (busWrite a v s).mem = s.mem := by simp [busWrite, h]

/-- A write leaves every other byte. -/
theorem busWrite_peek_other {s : State} {a b : Word} {v : Byte} (hab : b ≠ a) :
    (busWrite a v s).peek b = s.peek b := by
  have hn : a.toNat ≠ b.toNat := fun h => hab (BitVec.eq_of_toNat_eq h.symm)
  unfold State.peek
  rw [busWrite_isPlain, busWrite_mem]
  split
  · split
    · rw [read_write_other hn]
    · rfl
  · rfl

/-- A write to a plain address is read back. -/
theorem busWrite_peek_same {s : State} {a : Word} {v : Byte} (hm : Memory.wf s.mem = true)
    (hw : s.isPlain a = true) : (busWrite a v s).peek a = some v := by
  rw [peek_plain (by simpa using hw), busWrite_mem]
  simp [hw, read_write_same hm]

/-- A write keeps the canonical form. -/
theorem busWrite_wf {s : State} {a : Word} {v : Byte} (hm : Memory.wf s.mem = true) :
    Memory.wf (busWrite a v s).mem = true := by
  rw [busWrite_mem]
  split
  · exact write_wf hm
  · exact hm

/-! ## The stack unit -/

/-- The stack address as a number: page 1 at the offset. -/
theorem stackAddress_toNat (b : Byte) : (stackAddress b).toNat = 256 + b.toNat := by
  have h := (by decide : ∀ b : Byte, (stackAddress b).toNat = 256 + b.toNat)
  exact h b

theorem push_peek_other {s : State} {b : Word} {v : Byte} (h : b ≠ stackAddress s.sp) :
    (push v s).peek b = s.peek b :=
  busWrite_peek_other (s := s) (v := v) h

theorem push_peek_same {s : State} {v : Byte} (hm : Memory.wf s.mem = true)
    (hw : s.isPlain (stackAddress s.sp) = true) : (push v s).peek (stackAddress s.sp) = some v :=
  busWrite_peek_same (s := s) (v := v) hm hw

theorem push_wf {s : State} {v : Byte} (hm : Memory.wf s.mem = true) : Memory.wf (push v s).mem = true :=
  busWrite_wf hm

theorem interruptEntry_wf {vec : Word} {b : Bool} {s : State} (hm : Memory.wf s.mem = true) :
    Memory.wf (interruptEntry vec b s).mem = true :=
  push_wf (push_wf (push_wf hm))

/-! ## The resolver -/

/-- Resolving changes the access list, nothing else (R400). -/
theorem resolve_state (o : Operand) (s : State) :
    (resolve o s).state =
      { s with accesses := (resolve o s).state.accesses } := by
  cases o <;> rfl

/-- What the preparation of an instruction's operand is, when it is well formed. -/
theorem prepare_wellFormed {i : Instr} {o : Operand} {s : State} (h : i.wellFormed = true) :
    prepare i o s = some ((resolve o s).opd,
      { (resolve o s).state with cycles := i.baseCycles + pagePenalty i (resolve o s).crossed }) := by
  simp [prepare, h]

/-- No shape of instruction runs a term that is no instruction. -/
theorem prepare_illFormed {i : Instr} {o : Operand} {s : State} (h : i.wellFormed = false) :
    prepare i o s = none := by simp [prepare, h]

/-- The preparation of an operand changes the access list and the cycle count. -/
theorem prepare_state {i : Instr} {o : Operand} {s u : State} {d : Opd} (h : prepare i o s = some (d, u)) :
    u = { s with accesses := u.accesses, cycles := u.cycles } := by
  unfold prepare at h
  split at h
  · simp only [Option.some.injEq, Prod.mk.injEq] at h
    rw [← h.2, resolve_state]
  · cases h

/-- A load changes the access list. -/
theorem load_state {d : Opd} {s u : State} {v : Byte} (h : load d s = some (v, u)) :
    u = { s with accesses := u.accesses } := by
  cases d <;> simp only [load, reduceCtorEq, Option.some.injEq, Prod.mk.injEq] at h
  · rw [← h.2]
  · rw [← h.2]
  · rw [← (Prod.mk.inj h).2]

/-- Reading an operand changes the access list and the cycle count. -/
theorem readOperand_state {i : Instr} {o : Operand} {s u : State} {m : Byte}
    (h : readOperand i o s = some (m, u)) :
    u = { s with accesses := u.accesses, cycles := u.cycles } := by
  unfold readOperand at h
  rw [Option.bind_eq_some_iff] at h
  obtain ⟨⟨d, w⟩, hp, hl⟩ := h
  have h1 := prepare_state hp
  have h2 := load_state hl
  rw [h2, h1]

/-- The operand of a read-class instruction can be read: it is an immediate value or lies in memory (R401). -/
theorem readOperand_completes {i : Instr} {s : State} (hr : isReadClass i = true) (hw : i.wellFormed = true) :
    ∃ m u, readOperand i i.operand s = some (m, u) ∧
      u.cycles = i.baseCycles + (if (resolve i.operand s).crossed then 1 else 0) := by
  have hload : ∀ o : Operand, o.mode ≠ .implied ∧ o.mode ≠ .relative → ∀ u, ∃ m v, load (resolve o s).opd u = some (m, v) ∧
      v.cycles = u.cycles := by
    intro o ho u
    cases o <;> first
      | exact ⟨_, _, rfl, rfl⟩
      | exact absurd rfl ho.1
      | exact absurd rfl ho.2
  have hm : i.operand.mode ≠ .implied ∧ i.operand.mode ≠ .relative := by
    cases i <;> first
      | exact absurd hr Bool.false_ne_true
      | (rename_i o; cases o <;> first
          | exact absurd hw Bool.false_ne_true
          | exact ⟨by simp [Instr.operand, Operand.mode], by simp [Instr.operand, Operand.mode]⟩)
  obtain ⟨m, v, hl, hc⟩ := hload i.operand hm
    { (resolve i.operand s).state with cycles := i.baseCycles + pagePenalty i (resolve i.operand s).crossed }
  refine ⟨m, v, ?_, ?_⟩
  · simp [readOperand, prepare_wellFormed hw, hl]
  · simp [hc, pagePenalty, hr]

/-- A store keeps the canonical form. -/
theorem store_wf {d : Opd} {v : Byte} {s t : State} (h : store d v s = some t) (hm : Memory.wf s.mem = true) :
    Memory.wf t.mem = true := by
  cases d <;> simp only [store, reduceCtorEq, Option.some.injEq] at h
  · rw [← h]; exact hm
  · rw [← h]; exact busWrite_wf hm

/-! ## What a completed shape says -/

theorem completed_next {o : Option State} {t : State} (h : completed o = .next t) : o = some t := by
  cases o with
  | none => cases h
  | some u => cases h; rfl

/-- A read-class instruction that completes has read its operand, and its effect is on the state after that. -/
theorem runRead_next {i : Instr} {o : Operand} {f : Byte → State → State} {s t : State}
    (h : runRead i o f s = .next t) : ∃ m u, readOperand i o s = some (m, u) ∧ t = f m u := by
  have h := completed_next h
  rw [Option.map_eq_some_iff] at h
  obtain ⟨⟨m, u⟩, hr, rfl⟩ := h
  exact ⟨m, u, hr, rfl⟩

/-- A store that completes has stored at its operand. -/
theorem runStore_next {i : Instr} {o : Operand} {v : Byte} {s t : State} (h : runStore i o v s = .next t) :
    ∃ d u, prepare i o s = some (d, u) ∧ store d v u = some t := by
  have h := completed_next h
  rw [Option.bind_eq_some_iff] at h
  obtain ⟨⟨d, u⟩, hp, hs⟩ := h
  exact ⟨d, u, hp, hs⟩

/-- A read-modify-write instruction that completes has loaded its operand once and stored there once. -/
theorem runModify_next {i : Instr} {o : Operand} {f : Byte → Status → Byte × Status} {s t : State}
    (h : runModify i o f s = .next t) :
    ∃ d u v w t', prepare i o s = some (d, u) ∧ load d u = some (v, w) ∧ store d (f v w.p).1 w = some t' ∧
      t = { t' with p := (f v w.p).2 } := by
  have h := completed_next h
  rw [Option.bind_eq_some_iff] at h
  obtain ⟨⟨d, u⟩, hp, h⟩ := h
  rw [Option.bind_eq_some_iff] at h
  obtain ⟨⟨v, w⟩, hl, h⟩ := h
  rw [Option.map_eq_some_iff] at h
  obtain ⟨t', hs, rfl⟩ := h
  exact ⟨d, u, v, w, t', hp, hl, hs, rfl⟩

/-- A jump that completes has an effective address. -/
theorem runJump_next {i : Instr} {o : Operand} {f : Word → State → State} {s t : State}
    (h : runJump i o f s = .next t) :
    ∃ d u ea, prepare i o s = some (d, u) ∧ d.address = some ea ∧ t = f ea u := by
  have h := completed_next h
  rw [Option.bind_eq_some_iff] at h
  obtain ⟨⟨d, u⟩, hp, h⟩ := h
  rw [Option.map_eq_some_iff] at h
  obtain ⟨ea, ha, rfl⟩ := h
  exact ⟨d, u, ea, hp, ha, rfl⟩

/-- A branch that completes has a displacement. -/
theorem runBranch_next {i : Instr} {o : Operand} {c : Bool} {s t : State} (h : runBranch i o c s = .next t) :
    ∃ d u b, prepare i o s = some (d, u) ∧ d.displacement = some b ∧ t = takeBranch c b u := by
  have h := completed_next h
  rw [Option.bind_eq_some_iff] at h
  obtain ⟨⟨d, u⟩, hp, h⟩ := h
  rw [Option.map_eq_some_iff] at h
  obtain ⟨b, hb, rfl⟩ := h
  exact ⟨d, u, b, hp, hb, rfl⟩

theorem runImplied_next {i : Instr} {f : State → State} {s t : State} (h : runImplied i f s = .next t) :
    t = f { s with cycles := i.baseCycles } := by
  cases h; rfl

end Sys2Proof.Laws
end

