-- ==== Sys2Proof/Laws/PerInstr.lean ====
section
/-! SUPPORT. The lemmas of the family EncodeLength: a well-formed instruction is encoded as one opcode byte and the operand
bytes of its mode (R300, R301). -/

namespace Sys2Proof.Laws.EncodeLength

/-- The number of bytes of an instruction. -/
def Statement (i : Instr) : Prop :=
  i.wellFormed = true → (encode i).length = 1 + i.operand.mode.operandBytes

theorem adc (o : Operand) : Statement (.adc o) := by
  intro h; cases o <;> first | rfl | exact absurd h Bool.false_ne_true
theorem sbc (o : Operand) : Statement (.sbc o) := by
  intro h; cases o <;> first | rfl | exact absurd h Bool.false_ne_true
theorem and (o : Operand) : Statement (.and o) := by
  intro h; cases o <;> first | rfl | exact absurd h Bool.false_ne_true
theorem eor (o : Operand) : Statement (.eor o) := by
  intro h; cases o <;> first | rfl | exact absurd h Bool.false_ne_true
theorem ora (o : Operand) : Statement (.ora o) := by
  intro h; cases o <;> first | rfl | exact absurd h Bool.false_ne_true
theorem asl (o : Operand) : Statement (.asl o) := by
  intro h; cases o <;> first | rfl | exact absurd h Bool.false_ne_true
theorem lsr (o : Operand) : Statement (.lsr o) := by
  intro h; cases o <;> first | rfl | exact absurd h Bool.false_ne_true
theorem rol (o : Operand) : Statement (.rol o) := by
  intro h; cases o <;> first | rfl | exact absurd h Bool.false_ne_true
theorem ror (o : Operand) : Statement (.ror o) := by
  intro h; cases o <;> first | rfl | exact absurd h Bool.false_ne_true
theorem inc (o : Operand) : Statement (.inc o) := by
  intro h; cases o <;> first | rfl | exact absurd h Bool.false_ne_true
theorem dec (o : Operand) : Statement (.dec o) := by
  intro h; cases o <;> first | rfl | exact absurd h Bool.false_ne_true
theorem inx : Statement .inx := fun _ => rfl
theorem iny : Statement .iny := fun _ => rfl
theorem dex : Statement .dex := fun _ => rfl
theorem dey : Statement .dey := fun _ => rfl
theorem lda (o : Operand) : Statement (.lda o) := by
  intro h; cases o <;> first | rfl | exact absurd h Bool.false_ne_true
theorem ldx (o : Operand) : Statement (.ldx o) := by
  intro h; cases o <;> first | rfl | exact absurd h Bool.false_ne_true
theorem ldy (o : Operand) : Statement (.ldy o) := by
  intro h; cases o <;> first | rfl | exact absurd h Bool.false_ne_true
theorem sta (o : Operand) : Statement (.sta o) := by
  intro h; cases o <;> first | rfl | exact absurd h Bool.false_ne_true
theorem stx (o : Operand) : Statement (.stx o) := by
  intro h; cases o <;> first | rfl | exact absurd h Bool.false_ne_true
theorem sty (o : Operand) : Statement (.sty o) := by
  intro h; cases o <;> first | rfl | exact absurd h Bool.false_ne_true
theorem clc : Statement .clc := fun _ => rfl
theorem sec : Statement .sec := fun _ => rfl
theorem cli : Statement .cli := fun _ => rfl
theorem sei : Statement .sei := fun _ => rfl
theorem cld : Statement .cld := fun _ => rfl
theorem sed : Statement .sed := fun _ => rfl
theorem clv : Statement .clv := fun _ => rfl
theorem cmp (o : Operand) : Statement (.cmp o) := by
  intro h; cases o <;> first | rfl | exact absurd h Bool.false_ne_true
theorem cpx (o : Operand) : Statement (.cpx o) := by
  intro h; cases o <;> first | rfl | exact absurd h Bool.false_ne_true
theorem cpy (o : Operand) : Statement (.cpy o) := by
  intro h; cases o <;> first | rfl | exact absurd h Bool.false_ne_true
theorem jmp (o : Operand) : Statement (.jmp o) := by
  intro h; cases o <;> first | rfl | exact absurd h Bool.false_ne_true
theorem jsr (o : Operand) : Statement (.jsr o) := by
  intro h; cases o <;> first | rfl | exact absurd h Bool.false_ne_true
theorem rts : Statement .rts := fun _ => rfl
theorem rti : Statement .rti := fun _ => rfl
theorem bcc (o : Operand) : Statement (.bcc o) := by
  intro h; cases o <;> first | rfl | exact absurd h Bool.false_ne_true
theorem bcs (o : Operand) : Statement (.bcs o) := by
  intro h; cases o <;> first | rfl | exact absurd h Bool.false_ne_true
theorem beq (o : Operand) : Statement (.beq o) := by
  intro h; cases o <;> first | rfl | exact absurd h Bool.false_ne_true
theorem bmi (o : Operand) : Statement (.bmi o) := by
  intro h; cases o <;> first | rfl | exact absurd h Bool.false_ne_true
theorem bne (o : Operand) : Statement (.bne o) := by
  intro h; cases o <;> first | rfl | exact absurd h Bool.false_ne_true
theorem bpl (o : Operand) : Statement (.bpl o) := by
  intro h; cases o <;> first | rfl | exact absurd h Bool.false_ne_true
theorem bvc (o : Operand) : Statement (.bvc o) := by
  intro h; cases o <;> first | rfl | exact absurd h Bool.false_ne_true
theorem bvs (o : Operand) : Statement (.bvs o) := by
  intro h; cases o <;> first | rfl | exact absurd h Bool.false_ne_true
theorem pha : Statement .pha := fun _ => rfl
theorem php : Statement .php := fun _ => rfl
theorem pla : Statement .pla := fun _ => rfl
theorem plp : Statement .plp := fun _ => rfl
theorem tax : Statement .tax := fun _ => rfl
theorem tay : Statement .tay := fun _ => rfl
theorem tsx : Statement .tsx := fun _ => rfl
theorem txa : Statement .txa := fun _ => rfl
theorem txs : Statement .txs := fun _ => rfl
theorem tya : Statement .tya := fun _ => rfl
theorem bit (o : Operand) : Statement (.bit o) := by
  intro h; cases o <;> first | rfl | exact absurd h Bool.false_ne_true
theorem nop : Statement .nop := fun _ => rfl
theorem brk : Statement .brk := fun _ => rfl
theorem unmapped (b : Byte) : Statement (.unmapped b) := fun _ => rfl

end Sys2Proof.Laws.EncodeLength
end

