-- ==== Sys2Proof/Laws/Safety.lean ====
section
/-! SUPPORT. What one transaction of a run says: it is over, or one more clean transaction was made; and which transactions
count as steps. -/

namespace Sys2Proof.Laws

open Sys2Proof.Machine Sys2Proof.Safety

theorem countStep_request {s : State} {k : Interrupt} {rest : List (Option Interrupt)} (n : Nat)
    (h : s.requests = some k :: rest) : countStep s n = n := by simp [countStep, startsStep, h]

theorem countStep_none {s : State} {rest : List (Option Interrupt)} (n : Nat) (h : s.requests = none :: rest) :
    countStep s n = n + 1 := by simp [countStep, startsStep, h]

theorem countStep_nil {s : State} (n : Nat) (h : s.requests = []) : countStep s n = n + 1 := by
  simp [countStep, startsStep, h]

/-- With no transaction left, a run has ended only where its end holds. -/
theorem runUntil_ended_zero {e : State → Nat → Bool} {d n : Nat} {s t : State} (h : runUntil e 0 d s = .ended t n) :
    e s d = true ∧ t = s ∧ n = d := by
  unfold runUntil at h
  split at h
  · cases h; exact ⟨‹_›, rfl, rfl⟩
  · cases h

/-- A run that ends is over at once, or goes on from the state after one clean transaction. -/
theorem runUntil_ended_succ {e : State → Nat → Bool} {fuel d n : Nat} {s t : State}
    (h : runUntil e (fuel + 1) d s = .ended t n) :
    (e s d = true ∧ t = s ∧ n = d) ∨
      ∃ u, e s d = false ∧ step s = .next u ∧ clean u = true ∧ runUntil e fuel (countStep s d) u = .ended t n := by
  unfold runUntil at h
  split at h
  · cases h; exact .inl ⟨‹_›, rfl, rfl⟩
  · rename_i he
    split at h
    · split at h
      · exact .inr ⟨_, by simpa using he, ‹_›, ‹_›, h⟩
      · cases h
    · cases h
    · cases h

end Sys2Proof.Laws
end

