-- ==== Sys2Proof/Tests/Slice0.lean ====
section
/-! SUPPORT. Tests with expected results from the spec (95_test_vectors.md and the encodings of 30_encoding.md), and for every
obligation with hypotheses a witness that meets them all. -/

namespace Sys2Proof.Tests

open Sys2Proof.Machine Sys2Proof.Claims

/-! ## Well-formedness: a term each check refuses -/

theorem test_illformed_alu_modes :
    [Instr.adc .implied, .sbc .accumulator, .and (.zeroPageY 0), .eor (.relative 0), .ora (.indirect 0), .lda .implied,
      .cmp (.zeroPageY 0)].map Instr.wellFormed = List.replicate 7 false := by decide

theorem test_illformed_shift_modes :
    [Instr.asl (.immediate 0), .lsr .implied, .rol (.absoluteY 0), .ror (.indirectX 0)].map Instr.wellFormed =
      List.replicate 4 false := by decide

theorem test_illformed_inc_dec_modes :
    [Instr.inc .accumulator, .dec (.absoluteY 0)].map Instr.wellFormed = List.replicate 2 false := by decide

theorem test_illformed_ldx : (Instr.ldx (.zeroPageX 0)).wellFormed = false := by decide
theorem test_illformed_ldy : (Instr.ldy (.absoluteY 0)).wellFormed = false := by decide
theorem test_illformed_sta : (Instr.sta (.immediate 0)).wellFormed = false := by decide
theorem test_illformed_stx : (Instr.stx (.zeroPageX 0)).wellFormed = false := by decide
theorem test_illformed_sty : (Instr.sty (.absoluteX 0)).wellFormed = false := by decide

theorem test_illformed_cpx_cpy :
    [Instr.cpx (.absoluteX 0), .cpy (.zeroPageX 0)].map Instr.wellFormed = List.replicate 2 false := by decide

theorem test_illformed_bit : (Instr.bit (.immediate 0)).wellFormed = false := by decide
theorem test_illformed_jmp : (Instr.jmp (.absoluteX 0)).wellFormed = false := by decide
theorem test_illformed_jsr : (Instr.jsr (.indirect 0)).wellFormed = false := by decide

theorem test_illformed_branches :
    [Instr.bcc .implied, .bcs (.absolute 0), .beq .implied, .bmi (.immediate 0), .bne (.indirect 0), .bpl .accumulator,
      .bvc (.zeroPage 0), .bvs (.absolute 0)].map Instr.wellFormed = List.replicate 8 false := by decide

/-- A mapped byte is no placeholder: the first and the last mapped one. -/
theorem test_illformed_unmapped :
    [Instr.unmapped 0x00, .unmapped 0xFE].map Instr.wellFormed = List.replicate 2 false := by decide

/-! ## Decoding: words written out from R304 and R301, the first byte lowest -/

theorem test_decode_arith :
    [decodeTableWord 16 0x5069, decodeTableWord 24 0x1234ED, decodeTableWord 16 0x2021, decodeTableWord 24 0xFF0059,
      decodeTableWord 16 0x8011] =
    [some (.adc (.immediate 0x50)), some (.sbc (.absolute 0x1234)), some (.and (.indirectX 0x20)),
      some (.eor (.absoluteY 0xFF00)), some (.ora (.indirectY 0x80))] := by decide

theorem test_decode_shift :
    [decodeTableWord 8 0x0A, decodeTableWord 24 0x12FF5E, decodeTableWord 16 0x1026, decodeTableWord 16 0xFF76] =
    [some (.asl .accumulator), some (.lsr (.absoluteX 0x12FF)), some (.rol (.zeroPage 0x10)),
      some (.ror (.zeroPageX 0xFF))] := by decide

theorem test_decode_inc_dec :
    [decodeTableWord 24 0x02FFFE, decodeTableWord 16 0x01C6, decodeTableWord 8 0xE8, decodeTableWord 8 0xC8,
      decodeTableWord 8 0xCA, decodeTableWord 8 0x88] =
    [some (.inc (.absoluteX 0x02FF)), some (.dec (.zeroPage 0x01)), some .inx, some .iny, some .dex, some .dey] := by
  decide

theorem test_decode_load_store :
    [decodeTableWord 24 0x8001BD, decodeTableWord 16 0x10B6, decodeTableWord 16 0xFFA0, decodeTableWord 16 0x2081,
      decodeTableWord 16 0xFF96, decodeTableWord 24 0x12348C] =
    [some (.lda (.absoluteX 0x8001)), some (.ldx (.zeroPageY 0x10)), some (.ldy (.immediate 0xFF)),
      some (.sta (.indirectX 0x20)), some (.stx (.zeroPageY 0xFF)), some (.sty (.absolute 0x1234))] := by decide

theorem test_decode_flags :
    [decodeTableWord 8 0x18, decodeTableWord 8 0x38, decodeTableWord 8 0x58, decodeTableWord 8 0x78, decodeTableWord 8 0xD8,
      decodeTableWord 8 0xF8, decodeTableWord 8 0xB8] =
    [some .clc, some .sec, some .cli, some .sei, some .cld, some .sed, some .clv] := by decide

theorem test_decode_compare :
    [decodeTableWord 24 0x0200D9, decodeTableWord 16 0x80E0, decodeTableWord 24 0x0300CC] =
    [some (.cmp (.absoluteY 0x0200)), some (.cpx (.immediate 0x80)), some (.cpy (.absolute 0x0300))] := by decide

theorem test_decode_jump :
    [decodeTableWord 24 0x02FF6C, decodeTableWord 24 0x900020, decodeTableWord 8 0x60, decodeTableWord 8 0x40] =
    [some (.jmp (.indirect 0x02FF)), some (.jsr (.absolute 0x9000)), some .rts, some .rti] := by decide

theorem test_decode_branch :
    [decodeTableWord 16 0xFE90, decodeTableWord 16 0x10B0, decodeTableWord 16 0x7FF0, decodeTableWord 16 0x0530,
      decodeTableWord 16 0x80D0, decodeTableWord 16 0xFC10, decodeTableWord 16 0x0250, decodeTableWord 16 0x0070] =
    [some (.bcc (.relative 0xFE)), some (.bcs (.relative 0x10)), some (.beq (.relative 0x7F)),
      some (.bmi (.relative 0x05)), some (.bne (.relative 0x80)), some (.bpl (.relative 0xFC)),
      some (.bvc (.relative 0x02)), some (.bvs (.relative 0x00))] := by decide

theorem test_decode_stack_transfer :
    [decodeTableWord 8 0x48, decodeTableWord 8 0x08, decodeTableWord 8 0x68, decodeTableWord 8 0x28, decodeTableWord 8 0xAA,
      decodeTableWord 8 0xA8, decodeTableWord 8 0xBA, decodeTableWord 8 0x8A, decodeTableWord 8 0x9A,
      decodeTableWord 8 0x98] =
    [some .pha, some .php, some .pla, some .plp, some .tax, some .tay, some .tsx, some .txa, some .txs, some .tya] := by
  decide

theorem test_decode_misc :
    [decodeTableWord 24 0x03002C, decodeTableWord 8 0xEA, decodeTableWord 8 0x00, decodeTableWord 8 0x02,
      decodeTableWord 8 0xFF] =
    [some (.bit (.absolute 0x0300)), some .nop, some .brk, some (.unmapped 0x02), some (.unmapped 0xFF)] := by decide

/-- A list that ends inside an instruction is rejected by name. -/
theorem test_decode_truncated : decode [0x4C, 0x34] = .error (.truncated 0x4C) ∧ decode [] = .error .noBytes :=
  ⟨rfl, rfl⟩

/-- The bytes of R301's formats, written out. -/
theorem test_encode :
    [Instr.jmp (.indirect 0x02FF), .lda (.immediate 0x42), .brk, .bne (.relative 0xFC), .asl .accumulator,
      .unmapped 0xFF].map encode = [[0x6C, 0xFF, 0x02], [0xA9, 0x42], [0x00], [0xD0, 0xFC], [0x0A], [0xFF]] := by decide

/-! ## One step of one instruction: the vectors of 95_test_vectors.md -/

/-- What a vector names: PC, the registers and flags, the writes in order and the cycle count. -/
structure Seen where
  pc : Word := 0x8000
  a : Byte := 0x00
  x : Byte := 0x00
  y : Byte := 0x00
  sp : Byte := 0x00
  p : Status := Status.clear
  writes : List (Word × Byte) := []
  cycles : Nat := 0
  deriving DecidableEq, Repr

def allSet : Status := { n := true, v := true, d := true, i := true, z := true, c := true }

/-- The state after reset with some bytes placed from an address on. -/
def placed : List Byte → Word → State → State
  | [], _, s => s
  | b :: bs, a, s => placed bs (a + 1) (s.place a b)

/-- The state after reset with code at 0x8000, cells of memory and registers as a vector's "before" column gives them. -/
def before (code : List Byte) (cells : List (Word × Byte)) (r : Seen) : State :=
  let s := cells.foldl (fun s e => s.place e.1 e.2) (placed code 0x8000 State.reset)
  { s with pc := r.pc, a := r.a, x := r.x, y := r.y, sp := r.sp, p := r.p }

def writesOf : List Access → List (Word × Byte)
  | [] => []
  | .read _ _ _ :: l => writesOf l
  | .write a v _ :: l => (a, v) :: writesOf l

/-- What is seen of a state. -/
def seen (t : State) : Seen :=
  { pc := t.pc, a := t.a, x := t.x, y := t.y, sp := t.sp, p := t.p, writes := writesOf t.accesses, cycles := t.cycles }

def seenOf : Result → Option Seen
  | .next t => some (seen t)
  | .fault _ => none
  | .refused _ => none

/-- One step from a vector's "before" column. -/
def ran (code : List Byte) (cells : List (Word × Byte)) (r : Seen) : Option Seen := seenOf (step (before code cells r))

/-- V41.1: `ADC #$50`. -/
theorem test_adc_v41_1 :
    ran [0x69, 0x50] [] { a := 0x50 } =
      some { pc := 0x8002, a := 0xA0, p := { Status.clear with n := true, v := true }, cycles := 2 } := by decide

/-- V41.9: `ADC ($20),Y`. -/
theorem test_adc_v41_9 :
    ran [0x71, 0x20] [(0x0020, 0xF8), (0x0021, 0x12), (0x1308, 0x02)] { a := 0x01, y := 0x10 } =
      some { pc := 0x8002, a := 0x03, y := 0x10, cycles := 6 } := by decide

/-- V41.12: `SBC #$01`. -/
theorem test_sbc_v41_12 :
    ran [0xE9, 0x01] [] { a := 0x05 } =
      some { pc := 0x8002, a := 0x03, p := { Status.clear with c := true }, cycles := 2 } := by decide

/-- V41.14: `SBC #$FF`. -/
theorem test_sbc_v41_14 :
    ran [0xE9, 0xFF] [] { a := 0x7F, p := { Status.clear with c := true } } =
      some { pc := 0x8002, a := 0x80, p := { Status.clear with n := true, v := true }, cycles := 2 } := by decide

/-- V41.17: `AND ($20,X)`. -/
theorem test_and_v41_17 :
    ran [0x21, 0x20] [(0x0024, 0x00), (0x0025, 0x03), (0x0300, 0xF0)] { a := 0x8F, x := 0x04 } =
      some { pc := 0x8002, a := 0x80, x := 0x04, p := { Status.clear with n := true }, cycles := 6 } := by decide

/-- V41.19: `EOR $0200,Y`. -/
theorem test_eor_v41_19 :
    ran [0x59, 0x00, 0x02] [(0x0201, 0xF0)] { a := 0x0F, y := 0x01 } =
      some { pc := 0x8003, a := 0xFF, y := 0x01, p := { Status.clear with n := true }, cycles := 4 } := by decide

/-- V41.21: `ORA $10,X`. -/
theorem test_ora_v41_21 :
    ran [0x15, 0x10] [(0x0005, 0x80)] { a := 0x01, x := 0xF5 } =
      some { pc := 0x8002, a := 0x81, x := 0xF5, p := { Status.clear with n := true }, cycles := 4 } := by decide

/-- V42.2: `ASL A`. -/
theorem test_asl_v42_2 :
    ran [0x0A] [] { a := 0x40, p := { Status.clear with c := true } } =
      some { pc := 0x8001, a := 0x80, p := { Status.clear with n := true }, cycles := 2 } := by decide

/-- V42.4: `ASL $12FF,X`. -/
theorem test_asl_v42_4 :
    ran [0x1E, 0xFF, 0x12] [(0x1300, 0x01)] { x := 0x01 } =
      some { pc := 0x8003, x := 0x01, writes := [(0x1300, 0x02)], cycles := 7 } := by decide

/-- V42.5: `LSR A`. -/
theorem test_lsr_v42_5 :
    ran [0x4A] [] { a := 0x01 } =
      some { pc := 0x8001, p := { Status.clear with z := true, c := true }, cycles := 2 } := by decide

/-- V42.7: `LSR $10,X`. -/
theorem test_lsr_v42_7 :
    ran [0x56, 0x10] [(0x000F, 0x80)] { x := 0xFF } =
      some { pc := 0x8002, x := 0xFF, writes := [(0x000F, 0x40)], cycles := 6 } := by decide

/-- V42.9: `ROL A`. -/
theorem test_rol_v42_9 :
    ran [0x2A] [] { p := { Status.clear with c := true } } =
      some { pc := 0x8001, a := 0x01, cycles := 2 } := by decide

/-- V42.10: `ROL $0300`. -/
theorem test_rol_v42_10 :
    ran [0x2E, 0x00, 0x03] [(0x0300, 0xFF)] { p := { Status.clear with c := true } } =
      some { pc := 0x8003, p := { Status.clear with n := true, c := true },
             writes := [(0x0300, 0xFF)], cycles := 6 } := by decide

/-- V42.12: `ROR A`. -/
theorem test_ror_v42_12 :
    ran [0x6A] [] { p := { Status.clear with c := true } } =
      some { pc := 0x8001, a := 0x80, p := { Status.clear with n := true }, cycles := 2 } := by decide

/-- V42.13: `ROR $10`. -/
theorem test_ror_v42_13 :
    ran [0x66, 0x10] [(0x0010, 0xFE)] {} =
      some { pc := 0x8002, writes := [(0x0010, 0x7F)], cycles := 5 } := by decide

/-- V43.3: `INC $FF,X`. -/
theorem test_inc_v43_3 :
    ran [0xF6, 0xFF] [(0x0001, 0x00)] { x := 0x02 } =
      some { pc := 0x8002, x := 0x02, writes := [(0x0001, 0x01)], cycles := 6 } := by decide

/-- V43.4: `INC $02FF,X`. -/
theorem test_inc_v43_4 :
    ran [0xFE, 0xFF, 0x02] [(0x0300, 0x41)] { x := 0x01 } =
      some { pc := 0x8003, x := 0x01, writes := [(0x0300, 0x42)], cycles := 7 } := by decide

/-- V43.5: `DEC $10`. -/
theorem test_dec_v43_5 :
    ran [0xC6, 0x10] [(0x0010, 0x01)] {} =
      some { pc := 0x8002, p := { Status.clear with z := true }, writes := [(0x0010, 0x00)], cycles := 5 } := by decide

/-- V43.6: `DEC $0300`. -/
theorem test_dec_v43_6 :
    ran [0xCE, 0x00, 0x03] [(0x0300, 0x00)] {} =
      some { pc := 0x8003, p := { Status.clear with n := true }, writes := [(0x0300, 0xFF)], cycles := 6 } := by decide

/-- V43.7: `INX`. -/
theorem test_inx_v43_7 :
    ran [0xE8] [] { x := 0xFF } =
      some { pc := 0x8001, p := { Status.clear with z := true }, cycles := 2 } := by decide

/-- V43.8: `INY`. -/
theorem test_iny_v43_8 :
    ran [0xC8] [] { y := 0x7F } =
      some { pc := 0x8001, y := 0x80, p := { Status.clear with n := true }, cycles := 2 } := by decide

/-- V43.9: `DEX`. -/
theorem test_dex_v43_9 :
    ran [0xCA] [] {} =
      some { pc := 0x8001, x := 0xFF, p := { Status.clear with n := true }, cycles := 2 } := by decide

/-- V43.10: `DEY`. -/
theorem test_dey_v43_10 :
    ran [0x88] [] { y := 0x01 } =
      some { pc := 0x8001, p := { Status.clear with z := true }, cycles := 2 } := by decide

/-- V44.6: `LDA ($FF,X)`. -/
theorem test_lda_v44_6 :
    ran [0xA1, 0xFF] [(0x00FF, 0x34), (0x0000, 0x12), (0x1234, 0x56)] {} =
      some { pc := 0x8002, a := 0x56, cycles := 6 } := by decide

/-- V44.7: `LDA ($FF),Y`. -/
theorem test_lda_v44_7 :
    ran [0xB1, 0xFF] [(0x00FF, 0x00), (0x0000, 0x03), (0x0301, 0xAA)] { y := 0x01 } =
      some { pc := 0x8002, a := 0xAA, y := 0x01, p := { Status.clear with n := true }, cycles := 5 } := by decide

/-- V44.8: `LDX $10,Y`. -/
theorem test_ldx_v44_8 :
    ran [0xB6, 0x10] [(0x0005, 0x01)] { y := 0xF5 } =
      some { pc := 0x8002, x := 0x01, y := 0xF5, cycles := 4 } := by decide

/-- V44.9: `LDX $02FF,Y`. -/
theorem test_ldx_v44_9 :
    ran [0xBE, 0xFF, 0x02] [(0x0300, 0x00)] { y := 0x01 } =
      some { pc := 0x8003, y := 0x01, p := { Status.clear with z := true }, cycles := 5 } := by decide

/-- V44.10: `LDY $10,X`. -/
theorem test_ldy_v44_10 :
    ran [0xB4, 0x10] [(0x0011, 0xC0)] { x := 0x01 } =
      some { pc := 0x8002, x := 0x01, y := 0xC0, p := { Status.clear with n := true }, cycles := 4 } := by decide

/-- V44.11: `LDY $02FF,X`. -/
theorem test_ldy_v44_11 :
    ran [0xBC, 0xFF, 0x02] [(0x0300, 0x01)] { x := 0x01 } =
      some { pc := 0x8003, x := 0x01, y := 0x01, cycles := 5 } := by decide

/-- V44.12: `STA $12FF,X`. -/
theorem test_sta_v44_12 :
    ran [0x9D, 0xFF, 0x12] [] { a := 0x5A, x := 0x01 } =
      some { pc := 0x8003, a := 0x5A, x := 0x01, writes := [(0x1300, 0x5A)], cycles := 5 } := by decide

/-- V44.13: `STA ($20),Y`. -/
theorem test_sta_v44_13 :
    ran [0x91, 0x20] [(0x0020, 0xFF), (0x0021, 0x12)] { a := 0x5A, y := 0x01 } =
      some { pc := 0x8002, a := 0x5A, y := 0x01, writes := [(0x1300, 0x5A)], cycles := 6 } := by decide

/-- V44.15: `STX $FF,Y`. -/
theorem test_stx_v44_15 :
    ran [0x96, 0xFF] [] { x := 0x11, y := 0x02 } =
      some { pc := 0x8002, x := 0x11, y := 0x02, writes := [(0x0001, 0x11)], cycles := 4 } := by decide

/-- V44.16: `STY $10,X`. -/
theorem test_sty_v44_16 :
    ran [0x94, 0x10] [] { x := 0xF0, y := 0x22 } =
      some { pc := 0x8002, x := 0xF0, y := 0x22, writes := [(0x0000, 0x22)], cycles := 4 } := by decide

/-- V45.1: `CLC`. -/
theorem test_clc_v45_1 :
    ran [0x18] [] { p := { Status.clear with n := true, c := true } } =
      some { pc := 0x8001, p := { Status.clear with n := true }, cycles := 2 } := by decide

/-- V45.2: `SEC`. -/
theorem test_sec_v45_2 :
    ran [0x38] [] {} =
      some { pc := 0x8001, p := { Status.clear with c := true }, cycles := 2 } := by decide

/-- V45.3: `CLI`. -/
theorem test_cli_v45_3 :
    ran [0x58] [] { p := { Status.clear with i := true } } =
      some { pc := 0x8001, cycles := 2 } := by decide

/-- V45.4: `SEI`. -/
theorem test_sei_v45_4 :
    ran [0x78] [] {} =
      some { pc := 0x8001, p := { Status.clear with i := true }, cycles := 2 } := by decide

/-- V45.5: `CLD`. -/
theorem test_cld_v45_5 :
    ran [0xD8] [] { p := { Status.clear with d := true } } =
      some { pc := 0x8001, cycles := 2 } := by decide

/-- V45.6: `SED`. -/
theorem test_sed_v45_6 :
    ran [0xF8] [] {} =
      some { pc := 0x8001, p := { Status.clear with d := true }, cycles := 2 } := by decide

/-- V45.7: `CLV`. -/
theorem test_clv_v45_7 :
    ran [0xB8] [] { p := { Status.clear with v := true } } =
      some { pc := 0x8001, cycles := 2 } := by decide

/-- V45.10: `CMP #$80`. -/
theorem test_cmp_v45_10 :
    ran [0xC9, 0x80] [] {} =
      some { pc := 0x8002, p := { Status.clear with n := true }, cycles := 2 } := by decide

/-- V45.12: `CMP $0200,X`. -/
theorem test_cmp_v45_12 :
    ran [0xDD, 0x00, 0x02] [(0x0205, 0x42)] { a := 0x42, x := 0x05 } =
      some { pc := 0x8003, a := 0x42, x := 0x05, p := { Status.clear with z := true, c := true }, cycles := 4 } := by decide

/-- V45.13: `CPX #$00`. -/
theorem test_cpx_v45_13 :
    ran [0xE0, 0x00] [] {} =
      some { pc := 0x8002, p := { Status.clear with z := true, c := true }, cycles := 2 } := by decide

/-- V45.14: `CPX $10`. -/
theorem test_cpx_v45_14 :
    ran [0xE4, 0x10] [(0x0010, 0x80)] { x := 0x7F } =
      some { pc := 0x8002, x := 0x7F, p := { Status.clear with n := true }, cycles := 3 } := by decide

/-- V45.15: `CPY #$FF`. -/
theorem test_cpy_v45_15 :
    ran [0xC0, 0xFF] [] { y := 0xFF } =
      some { pc := 0x8002, y := 0xFF, p := { Status.clear with z := true, c := true }, cycles := 2 } := by decide

/-- V45.16: `CPY $0300`. -/
theorem test_cpy_v45_16 :
    ran [0xCC, 0x00, 0x03] [(0x0300, 0x01)] {} =
      some { pc := 0x8003, p := { Status.clear with n := true }, cycles := 4 } := by decide

/-- V46.1: `JMP $1234`. -/
theorem test_jmp_v46_1 :
    ran [0x4C, 0x34, 0x12] [] {} =
      some { pc := 0x1234, cycles := 3 } := by decide

/-- V46.2: `JMP ($02FF)`. -/
theorem test_jmp_v46_2 :
    ran [0x6C, 0xFF, 0x02] [(0x02FF, 0x34), (0x0200, 0x12), (0x0300, 0x99)] {} =
      some { pc := 0x1234, cycles := 5 } := by decide

/-- V46.5: `JSR $9000`. -/
theorem test_jsr_v46_5 :
    ran [0x20, 0x00, 0x90] [] {} =
      some { pc := 0x9000, sp := 0xFE, writes := [(0x0100, 0x80), (0x01FF, 0x02)], cycles := 6 } := by decide

/-- V46.7: `RTS`. -/
theorem test_rts_v46_7 :
    ran [0x60] [(0x01FE, 0xFF), (0x01FF, 0xFF)] { sp := 0xFD } =
      some { pc := 0x0000, sp := 0xFF, cycles := 6 } := by decide

/-- V46.8: `RTI`. -/
theorem test_rti_v46_8 :
    ran [0x40] [(0x01FD, 0xFF), (0x01FE, 0x05), (0x01FF, 0x80)] { sp := 0xFC } =
      some { pc := 0x8005, sp := 0xFF, p := allSet, cycles := 6 } := by decide

/-- V46.9: `RTI`. -/
theorem test_rti_v46_9 :
    ran [0x40] [(0x01FD, 0x30), (0x01FE, 0x34), (0x01FF, 0x12)] { sp := 0xFC, p := { Status.clear with i := true, c := true } } =
      some { pc := 0x1234, sp := 0xFF, cycles := 6 } := by decide

/-- V46.10: `BCC $8002`. -/
theorem test_bcc_v46_10 :
    ran [0x90, 0x00] [] {} =
      some { pc := 0x8002, cycles := 3 } := by decide

/-- V46.11: `BCC $8012`. -/
theorem test_bcc_v46_11 :
    ran [0x90, 0x10] [] { p := { Status.clear with c := true } } =
      some { pc := 0x8002, p := { Status.clear with c := true }, cycles := 2 } := by decide

/-- V46.12: `BCS $8000`. -/
theorem test_bcs_v46_12 :
    ran [0xB0, 0xFE] [] { p := { Status.clear with c := true } } =
      some { p := { Status.clear with c := true }, cycles := 3 } := by decide

/-- V46.13: `BEQ $8081`. -/
theorem test_beq_v46_13 :
    ran [0xF0, 0x7F] [] { p := { Status.clear with z := true } } =
      some { pc := 0x8081, p := { Status.clear with z := true }, cycles := 3 } := by decide

/-- V46.14: `BNE $7F82`. -/
theorem test_bne_v46_14 :
    ran [0xD0, 0x80] [] {} =
      some { pc := 0x7F82, cycles := 4 } := by decide

/-- V46.15: `BMI $8007`. -/
theorem test_bmi_v46_15 :
    ran [0x30, 0x05] [] {} =
      some { pc := 0x8002, cycles := 2 } := by decide

/-- V46.16: `BPL $7FFE`. -/
theorem test_bpl_v46_16 :
    ran [0x10, 0xFC] [] {} =
      some { pc := 0x7FFE, cycles := 4 } := by decide

/-- V46.17: `BVC $8004`. -/
theorem test_bvc_v46_17 :
    ran [0x50, 0x02] [] {} =
      some { pc := 0x8004, cycles := 3 } := by decide

/-- V46.18: `BVS $8004`. -/
theorem test_bvs_v46_18 :
    ran [0x70, 0x02] [] {} =
      some { pc := 0x8002, cycles := 2 } := by decide

/-- V47.2: `PHA`. -/
theorem test_pha_v47_2 :
    ran [0x48] [] { a := 0x42 } =
      some { pc := 0x8001, a := 0x42, sp := 0xFF, writes := [(0x0100, 0x42)], cycles := 3 } := by decide

/-- V47.3: `PHP`. -/
theorem test_php_v47_3 :
    ran [0x08] [] { sp := 0xFF } =
      some { pc := 0x8001, sp := 0xFE, writes := [(0x01FF, 0x30)], cycles := 3 } := by decide

/-- V47.4: `PHP`. -/
theorem test_php_v47_4 :
    ran [0x08] [] { sp := 0xFF, p := allSet } =
      some { pc := 0x8001, sp := 0xFE, p := allSet, writes := [(0x01FF, 0xFF)], cycles := 3 } := by decide

/-- V47.6: `PLA`. -/
theorem test_pla_v47_6 :
    ran [0x68] [(0x0100, 0x80)] { sp := 0xFF } =
      some { pc := 0x8001, a := 0x80, p := { Status.clear with n := true }, cycles := 4 } := by decide

/-- V47.7: `PLP`. -/
theorem test_plp_v47_7 :
    ran [0x28] [(0x01FF, 0xFF)] { sp := 0xFE } =
      some { pc := 0x8001, sp := 0xFF, p := allSet, cycles := 4 } := by decide

/-- V47.8: `PLP`. -/
theorem test_plp_v47_8 :
    ran [0x28] [(0x01FF, 0x30)] { sp := 0xFE, p := allSet } =
      some { pc := 0x8001, sp := 0xFF, cycles := 4 } := by decide

/-- V47.9: `TAX`. -/
theorem test_tax_v47_9 :
    ran [0xAA] [] { x := 0x55 } =
      some { pc := 0x8001, p := { Status.clear with z := true }, cycles := 2 } := by decide

/-- V47.10: `TAY`. -/
theorem test_tay_v47_10 :
    ran [0xA8] [] { a := 0x80 } =
      some { pc := 0x8001, a := 0x80, y := 0x80, p := { Status.clear with n := true }, cycles := 2 } := by decide

/-- V47.11: `TSX`. -/
theorem test_tsx_v47_11 :
    ran [0xBA] [] {} =
      some { pc := 0x8001, p := { Status.clear with z := true }, cycles := 2 } := by decide

/-- V47.12: `TXA`. -/
theorem test_txa_v47_12 :
    ran [0x8A] [] { x := 0xFF } =
      some { pc := 0x8001, a := 0xFF, x := 0xFF, p := { Status.clear with n := true }, cycles := 2 } := by decide

/-- V47.13: `TXS`. -/
theorem test_txs_v47_13 :
    ran [0x9A] [] { sp := 0xFF, p := { Status.clear with n := true } } =
      some { pc := 0x8001, p := { Status.clear with n := true }, cycles := 2 } := by decide

/-- V47.14: `TYA`. -/
theorem test_tya_v47_14 :
    ran [0x98] [] { y := 0x01 } =
      some { pc := 0x8001, a := 0x01, y := 0x01, cycles := 2 } := by decide

/-- V48.1: `BIT $10`. -/
theorem test_bit_v48_1 :
    ran [0x24, 0x10] [(0x0010, 0xC0)] { a := 0x01 } =
      some { pc := 0x8002, a := 0x01, p := { Status.clear with n := true, v := true, z := true }, cycles := 3 } := by decide

/-- V48.3: `BIT $0300`. -/
theorem test_bit_v48_3 :
    ran [0x2C, 0x00, 0x03] [(0x0300, 0x01)] { a := 0x0F, p := { Status.clear with n := true, v := true } } =
      some { pc := 0x8003, a := 0x0F, cycles := 4 } := by decide

/-- V48.4: `NOP`. -/
theorem test_nop_v48_4 :
    ran [0xEA] [] {} =
      some { pc := 0x8001, cycles := 2 } := by decide

/-- V48.5: `BRK`. -/
theorem test_brk_v48_5 :
    ran [0x00, 0xEA] [(0xFFFE, 0x00), (0xFFFF, 0x90)] { sp := 0xFF, p := { Status.clear with d := true, c := true } } =
      some { pc := 0x9000, sp := 0xFC, p := { Status.clear with d := true, i := true, c := true },
             writes := [(0x01FF, 0x80), (0x01FE, 0x02), (0x01FD, 0x39)], cycles := 7 } := by decide

/-- V48.6: `BRK`. -/
theorem test_brk_v48_6 :
    ran [0x00] [(0xFFFE, 0x00), (0xFFFF, 0x90)] { sp := 0xFF, p := { Status.clear with i := true } } =
      some { pc := 0x9000, sp := 0xFC, p := { Status.clear with i := true },
             writes := [(0x01FF, 0x80), (0x01FE, 0x02), (0x01FD, 0x34)], cycles := 7 } := by decide

/-- The fetch wraps from 0xFFFF to 0x0000 (S6): `LDA` with its operand at 0x0000. -/
theorem test_fetch_wraps :
    ran [] [(0xFFFF, 0xA9), (0x0000, 0x42)] { pc := 0xFFFF } = some { pc := 0x0001, a := 0x42, cycles := 2 } := by decide

/-! ## Requests: the vectors VE.4 to VE.10 -/

/-- VE.7. -/
theorem test_irq_taken :
    seenOf (dispatchInterrupt .irq
      { before [] [(0xFFFE, 0x00), (0xFFFF, 0x90)] { sp := 0xFF, p := { Status.clear with c := true } } with accesses := [] }) =
      some { pc := 0x9000, sp := 0xFC, p := { Status.clear with i := true, c := true },
             writes := [(0x01FF, 0x80), (0x01FE, 0x00), (0x01FD, 0x21)], cycles := 7 } := by decide

/-- VE.8. -/
theorem test_irq_suppressed :
    seenOf (step { before [] [] { sp := 0xFF, p := { Status.clear with i := true } } with requests := [some .irq] }) =
      some { sp := 0xFF, p := { Status.clear with i := true } } := by decide

/-- VE.9. -/
theorem test_nmi_taken :
    seenOf (step { before [] [(0xFFFA, 0x00), (0xFFFB, 0xA0)] { sp := 0xFF, p := { Status.clear with n := true, i := true } } with
        requests := [some .nmi] }) =
      some { pc := 0xA000, sp := 0xFC, p := { Status.clear with n := true, i := true },
             writes := [(0x01FF, 0x80), (0x01FE, 0x00), (0x01FD, 0xA4)], cycles := 7 } := by decide

/-- VE.10. -/
theorem test_reset_again :
    seenOf (step { before [] [(0xFFFC, 0x34), (0xFFFD, 0x12)] { a := 0x05, sp := 0x40, p := { Status.clear with c := true } }
        with requests := [some .reset] }) =
      some { pc := 0x1234, a := 0x05, sp := 0x40, p := { Status.clear with c := true }, cycles := 7 } := by decide

/-- VE.4 to VE.6. -/
theorem test_faults :
    step State.construction = .fault .notReset ∧
    step { State.construction with requests := [some .nmi] } = .fault .notReset ∧
    step { State.construction with requests := [some .irq] } = .fault .notReset ∧
    step { State.reset with requests := [some .brk] } = .fault .badRequest := ⟨rfl, rfl, rfl, rfl⟩

/-- VE.3: registers, flags and memory as before, the event with the byte and its address, one access. -/
theorem test_unmapped :
    ∃ t, step (before [0xFF] [] { a := 0x01 }) = .next t ∧ t.a = 0x01 ∧ t.event = some (.unmapped 0xFF 0x8000) ∧
      t.mem = [(0x8000, 0xFF)] ∧ t.accesses = [.read 0x8000 0xFF false] := ⟨_, rfl, rfl, rfl, rfl, rfl⟩

/-- What `withFetchWord` stores is what the next step fetches and runs. -/
theorem test_with_fetch_word :
    seenOf (step (State.construction.withFetchWord 16 0x42A9)) = some { pc := 0x0002, a := 0x42, cycles := 2 } := by decide

/-! ## Witnesses: a concrete case for the hypotheses of each obligation -/

/-- NOP at 0x8000 in a state with canonical memory, one cell of it listed, and no address left to the oracle. -/
def nopState : State := { before [0xEA] [] {} with plain := [⟨0, 65536⟩] }

/-- `JMP` at the top of the address space, its operand bytes at 0x0000 and 0x0001. -/
def wrapState : State := before [] [(0xFFFF, 0x4C), (0x0000, 0x34), (0x0001, 0x12)] { pc := 0xFFFF }

theorem witness_EveryInstructionDecodesFromItsBytes : (Instr.adc (.indirectY 0xFF)).wellFormed = true := by decide

theorem witness_DecodingIsTotalAndGivesOnlyInstructions :
    ∃ i rest, decode [0x71, 0xFF, 0x00] = .ok (i, rest) := ⟨_, _, rfl⟩

theorem witness_StepRunsTheInstructionAtPc :
    wrapState.resetDone = true ∧ NoRequest wrapState ∧ (Instr.jmp (.absolute 0x1234)).wellFormed = true ∧
    ∀ k, (h : k < (encode (.jmp (.absolute 0x1234))).length) →
      wrapState.peek (wrapState.pc + BitVec.ofNat 16 k) = some ((encode (.jmp (.absolute 0x1234)))[k]) := by
  refine ⟨rfl, Or.inl rfl, rfl, fun k h => ?_⟩
  have h3 : k < 3 := h
  match k, h3 with
  | 0, _ => rfl
  | 1, _ => rfl
  | 2, _ => rfl

theorem witness_NotResetAndBadRequest :
    State.construction.resetDone = false ∧ NoRequest State.construction ∧
    NoRequest { State.construction with requests := [none] } ∧
    { State.construction with requests := [some .nmi] }.requests = some .nmi :: [] ∧
    { State.reset with requests := [some .brk] }.requests = some .brk :: [] :=
  ⟨rfl, Or.inl rfl, Or.inr ⟨[], rfl⟩, rfl, rfl⟩

theorem witness_EveryTransactionAfterResetCompletes :
    State.reset.resetDone = true ∧ ∀ rest, State.reset.requests ≠ some .brk :: rest := ⟨rfl, fun _ h => by cases h⟩

theorem witness_EveryTransactionKeepsCanonicalMemory :
    Memory.wf nopState.mem = true ∧ nopState.mem ≠ [] ∧ ∃ t, step nopState = .next t :=
  ⟨by decide, by decide, _, rfl⟩

theorem witness_NoDebugAccessAndAtMostSevenCycles : ∃ t, step nopState = .next t := ⟨_, rfl⟩

theorem witness_IllFormedTermsAreRefused : (Instr.bit (.immediate 0)).wellFormed = false := by decide

/-- The page at 0x2000 is left to the oracle, and nothing else. -/
def oracleState : State := { nopState with plain := [⟨0, 0x2000⟩, ⟨0x2100, 0xDF00⟩] }

theorem witness_BusReadsAndWrites :
    nopState.peek 0x8000 = some 0xEA ∧ oracleState.isPlain 0x2000 = false ∧ oracleState.isPlain 0x20FF = false ∧
    Memory.wf oracleState.mem = true ∧ oracleState.isPlain 0x2100 = true ∧ oracleState.isPlain 0x1FFF = true ∧
    (0x2100 : Word) ≠ 0x20FF := by decide

theorem witness_ReadClassLoadsItsOperandOnce :
    (isReadClass (.lda (.immediate 0)) = true ∧ (Instr.lda (.immediate 0)).wellFormed = true) ∧
    isReadClass (.bit (.absolute 0xFFFF)) = true ∧ (Instr.bit (.absolute 0xFFFF)).wellFormed = true := by decide

/-- For the statements whose hypothesis is that a term is well formed: one of each clause. -/
theorem witness_AdcAndSbcFollowTheArithmeticLaws :
    (Instr.adc (.absoluteX 0xFFFF)).wellFormed = true ∧ (Instr.sbc (.immediate 0xFF)).wellFormed = true := by decide

theorem witness_LogicOperationsOnA :
    (Instr.and (.zeroPage 0xFF)).wellFormed = true ∧ (Instr.eor (.indirectX 0xFF)).wellFormed = true ∧
    (Instr.ora (.immediate 0)).wellFormed = true := by decide

theorem witness_DecimalFlagIsInert :
    (∃ t, exec (.adc (.immediate 0x19)) nopState = .next t) ∧ (∃ t, exec .php nopState = .next t) ∧
    (∃ t, exec .brk nopState = .next t) ∧ Memory.wf nopState.mem = true ∧
    nopState.isPlain (page1 0x00) = true ∧ nopState.isPlain (page1 0xFE) = true ∧
    nopState.isPlain 0xFFFE = true ∧ nopState.isPlain 0xFFFF = true :=
  ⟨⟨_, rfl⟩, ⟨_, rfl⟩, ⟨_, rfl⟩, by decide, by decide, by decide, by decide, by decide⟩

theorem witness_ShiftsAndRotates :
    [Instr.asl .accumulator, .lsr (.absoluteX 0xFFFF), .rol (.zeroPage 0xFF), .ror .accumulator].map Instr.wellFormed =
      List.replicate 4 true := by decide

theorem witness_IncAndDecMemory :
    [Instr.inc (.absoluteX 0xFFFF), .dec (.zeroPage 0x00)].map Instr.wellFormed = List.replicate 2 true := by decide

theorem witness_LoadsSetRegisterAndFlags :
    [Instr.lda (.indirectY 0xFF), .ldx (.zeroPageY 0xFF), .ldy (.immediate 0x80)].map Instr.wellFormed =
      List.replicate 3 true := by decide

theorem witness_StoresWriteOneByte :
    [Instr.sta (.indirectX 0xFF), .stx (.zeroPageY 0xFF), .sty (.absolute 0xFFFF)].map Instr.wellFormed =
      List.replicate 3 true := by decide

theorem witness_ComparesSetCarryZeroNegative :
    [Instr.cmp (.absoluteY 0xFFFF), .cpx (.immediate 0), .cpy (.zeroPage 0xFF)].map Instr.wellFormed =
      List.replicate 3 true := by decide

/-- Every condition of a branch holds in one of these two states, and fails in the other. -/
theorem witness_BranchesOnOneFlag :
    (allSet.c = true ∧ allSet.z = true ∧ allSet.n = true ∧ allSet.v = true) ∧
    Status.clear.c = false ∧ Status.clear.z = false ∧ Status.clear.n = false ∧ Status.clear.v = false := by decide

theorem witness_BitTestsTheOperand : (Instr.bit (.zeroPage 0xFF)).wellFormed = true := by decide

theorem witness_PushesStayInPageOne :
    (0x00FF : Word).toNat < 256 ∧ 512 ≤ (0x0200 : Word).toNat ∧ { nopState with sp := 0xFF }.sp = 0xFF := by decide

/-- The premise under which `BytesStored` says what a stored byte reads as: canonical memory, a plain address. -/
theorem witness_BytesStored :
    Memory.wf oracleState.mem = true ∧ oracleState.isPlain (page1 0x00) = true ∧
    oracleState.isPlain (page1 0xFF) = true := by decide

theorem witness_UnmappedByteHasNoEffectButItsEvent :
    (0x02 : Byte) ∈ unmappedBytes ∧ (0xFF : Byte) ∈ unmappedBytes := by decide

theorem witness_InterruptEntryPushesAndVectors :
    512 ≤ (0x0200 : Word).toNat ∧ (0xFFFE : Word).toNat < 65535 ∧ oracleState.peek 0x0200 = some 0x00 ∧
    oracleState.peek 0xFFFF = some 0x00 := by decide

theorem witness_NmiIsTakenWhateverI : State.reset.resetDone = true ∧ State.construction.resetDone = false := by decide

theorem witness_IrqIsTakenOrSuppressed :
    State.reset.resetDone = true ∧ State.reset.p.i = false ∧
    { State.reset with p := allSet, requests := [some .irq] }.resetDone = true ∧
    { State.reset with p := allSet, requests := [some .irq] }.p.i = true ∧
    { State.reset with p := allSet, requests := [some .irq] }.requests = some .irq :: [] := by decide

theorem witness_OneRequestPerBoundary :
    { nopState with requests := [some .nmi, none] }.requests = some .nmi :: [none] ∧
    (∃ t, step { nopState with requests := [some .nmi, none] } = .next t) ∧
    (∃ t, step { nopState with requests := [none] } = .next t) ∧ NoRequest { nopState with requests := [none] } :=
  ⟨rfl, ⟨_, rfl⟩, ⟨_, rfl⟩, Or.inr ⟨[], rfl⟩⟩

/-- S = 0x01, so that the pushes wrap; the state when RTI runs is that after the entry. -/
theorem witness_RtiUndoesInterruptEntry :
    let s := { nopState with sp := 0x01, p := allSet }
    Memory.wf s.mem = true ∧ (∀ k, k < 3 → s.isPlain (page1 (s.sp - BitVec.ofNat 8 k)) = true) ∧
    (interruptEntry 0xFFFE true s).sp = s.sp - 3 := by decide

theorem witness_RtsUndoesJsr :
    let s := { nopState with sp := 0x00 }
    Memory.wf s.mem = true ∧ (∀ k, k < 2 → s.isPlain (page1 (s.sp - BitVec.ofNat 8 k)) = true) ∧
    ∃ called, exec (.jsr (.absolute 0x9000)) s = .next called ∧ called.sp = 0xFE := ⟨by decide, by decide, _, rfl, rfl⟩

theorem witness_SeiAndCliGovernTheNextIrq :
    nopState.resetDone = true ∧ (∃ t, exec .sei nopState = .next t) ∧ ∃ t, exec .cli nopState = .next t :=
  ⟨rfl, ⟨_, rfl⟩, _, rfl⟩

theorem witness_OnlyStoringFormsChangeMemory :
    (∃ t, exec (.cmp (.indirectY 0xFF)) nopState = .next t) ∧ ¬ storesMemory (.cmp (.indirectY 0xFF)) ∧
    (∃ t, exec (.asl .accumulator) nopState = .next t) ∧ ¬ storesMemory (.asl .accumulator) :=
  ⟨⟨_, rfl⟩, by simp [storesMemory, Instr.op], ⟨_, rfl⟩, by simp [storesMemory, Instr.op, Instr.operand]⟩

theorem witness_StoringFormsChangeOnlyTheirBytes :
    (∃ t, exec (.ror (.absoluteX 0xFFFF)) nopState = .next t) ∧ IsOneOf (.ror (.absoluteX 0xFFFF)) [.ror] ∧
    (resolve (.absoluteX 0xFFFF) nopState).opd.address = some 0xFFFF ∧ (∃ t, exec .pha nopState = .next t) ∧
    (∃ t, exec (.jsr (.absolute 0)) nopState = .next t) ∧ ∃ t, exec .brk nopState = .next t :=
  ⟨⟨_, rfl⟩, by decide, by decide, ⟨_, rfl⟩, ⟨_, rfl⟩, _, rfl⟩

/-- For the three whole-machine rules over a completed instruction. -/
theorem witness_RegistersChangeOnlyByTheirInstructions : ∃ t, exec .pla nopState = .next t := ⟨_, rfl⟩
theorem witness_FlagsChangeOnlyByTheirInstructions : ∃ t, exec .rti nopState = .next t := ⟨_, rfl⟩
theorem witness_HiddenStateAndPcFrame : ∃ t, exec (.bne (.relative 0x80)) nopState = .next t := ⟨_, rfl⟩

theorem witness_StepAdvancesPcByTheLength :
    let s := before [0xAD, 0xFF, 0xFF] [] {}
    let i := (fetchInstr (beginTransaction { s with requests := s.requests.tail })).1
    s.resetDone = true ∧ NoRequest s ∧ (∃ t, step s = .next t) ∧ i = .lda (.absolute 0xFFFF) ∧
    ¬ IsOneOf i [.jmp, .jsr, .rts, .rti, .brk] ∧ branchTaken i s = false ∧ ∀ b, i ≠ .unmapped b :=
  ⟨rfl, Or.inl rfl, ⟨_, rfl⟩, rfl, by decide, rfl, fun _ h => by cases h⟩

theorem witness_CycleCountOfAnInstruction :
    (∃ t, exec (.bne (.relative 0x80)) nopState = .next t) ∧ ∀ b, Instr.bne (.relative 0x80) ≠ .unmapped b :=
  ⟨⟨_, rfl⟩, fun _ h => by cases h⟩

/-- S2 of the spec: with X = 1 a load from 0x12FF crosses, and one from 0x12FE does not; the same of a store, and of one base
with X = 1 and X = 0. -/
theorem witness_CrossingCostsReadsOneCycleAndStoresNone :
    let s := { nopState with x := 0x01 }
    (∃ t, exec (.lda (.absoluteX 0x12FF)) s = .next t) ∧ (∃ t, exec (.lda (.absoluteX 0x12FE)) s = .next t) ∧
    (∃ t, exec (.sta (.absoluteX 0x12FF)) s = .next t) ∧ (∃ t, exec (.sta (.absoluteX 0x12FE)) s = .next t) ∧
    (Instr.lda (.absoluteX 0x12FE)).op = (Instr.lda (.absoluteX 0x12FF)).op ∧
    (Operand.absoluteX 0x12FE).mode = (Operand.absoluteX 0x12FF).mode ∧
    (Operand.absoluteX 0x12FF).mode ∈ [Mode.absoluteX, .absoluteY] ∧
    (resolve (.absoluteX 0x12FF) s).crossed = true ∧ (resolve (.absoluteX 0x12FE) s).crossed = false ∧
    (resolve (.absoluteX 0x12FF) nopState).crossed = false :=
  ⟨⟨_, rfl⟩, ⟨_, rfl⟩, ⟨_, rfl⟩, ⟨_, rfl⟩, by decide, by decide, by decide, by decide, by decide, by decide⟩

/-- Two transactions, the dispatch of an NMI to 0x8000 and the NOP there, are one step (R1030). -/
theorem witness_EndedRunsMeetTheirEndAndAreClean :
    ∃ t, Safety.runUntil (fun _ n => n == 1) 3 0
      { before [0xEA] [(0xFFFA, 0x00), (0xFFFB, 0x80)] {} with requests := [some .nmi] } = .ended t 1 ∧ t.pc = 0x8001 := ⟨_, rfl, rfl⟩

/-- A run that is over before its first transaction, and one in which a transaction stops. -/
theorem test_run_until :
    (∃ t, Safety.runUntil (fun _ n => n == 0) 3 0 nopState = .ended t 0) ∧
    Safety.runUntil (fun _ n => n == 1) 3 0 { nopState with requests := [some .brk] } = .faulted := ⟨⟨_, rfl⟩, rfl⟩

end Sys2Proof.Tests
end

section
/-! # Proofs about the state: what an instruction may change, and that every transaction after RESET completes

The frame statements rest on one lemma per shape of instruction (`runRead_frame` to `runBranch_frame`), which says what a run of
that shape writes; an instruction adds its own effect. -/

namespace Sys2Proof.Proofs

open Sys2Proof.Machine Sys2Proof.Claims Sys2Proof.Laws

/-! ## What the flag computations leave alone (R107 to R111) -/

@[simp] theorem setNZ_frame (r : Byte) (p : Status) :
    (setNZ r p).c = p.c ∧ (setNZ r p).i = p.i ∧ (setNZ r p).d = p.d ∧ (setNZ r p).v = p.v :=
  ⟨rfl, rfl, rfl, rfl⟩

@[simp] theorem addWithCarry_frame (a m : Byte) (p : Status) :
    (addWithCarry a m p).2.i = p.i ∧ (addWithCarry a m p).2.d = p.d :=
  ⟨rfl, rfl⟩

@[simp] theorem compareFlags_frame (reg m : Byte) (p : Status) :
    (compareFlags reg m p).i = p.i ∧ (compareFlags reg m p).d = p.d ∧ (compareFlags reg m p).v = p.v :=
  ⟨rfl, rfl, rfl⟩

@[simp] theorem bitFlags_frame (a m : Byte) (p : Status) :
    (bitFlags a m p).c = p.c ∧ (bitFlags a m p).i = p.i ∧ (bitFlags a m p).d = p.d :=
  ⟨rfl, rfl, rfl⟩

@[simp] theorem shiftLeft_frame (v : Byte) (p : Status) :
    (shiftLeft v p).2.i = p.i ∧ (shiftLeft v p).2.d = p.d ∧ (shiftLeft v p).2.v = p.v :=
  ⟨rfl, rfl, rfl⟩

@[simp] theorem shiftRight_frame (v : Byte) (p : Status) :
    (shiftRight v p).2.i = p.i ∧ (shiftRight v p).2.d = p.d ∧ (shiftRight v p).2.v = p.v :=
  ⟨rfl, rfl, rfl⟩

@[simp] theorem rotateLeft_frame (v : Byte) (p : Status) :
    (rotateLeft v p).2.i = p.i ∧ (rotateLeft v p).2.d = p.d ∧ (rotateLeft v p).2.v = p.v :=
  ⟨rfl, rfl, rfl⟩

@[simp] theorem rotateRight_frame (v : Byte) (p : Status) :
    (rotateRight v p).2.i = p.i ∧ (rotateRight v p).2.d = p.d ∧ (rotateRight v p).2.v = p.v :=
  ⟨rfl, rfl, rfl⟩

@[simp] theorem increment_flags (v : Byte) (p : Status) : (increment v p).2 = setNZ (increment v p).1 p := rfl

@[simp] theorem decrement_flags (v : Byte) (p : Status) : (decrement v p).2 = setNZ (decrement v p).1 p := rfl

/-! ## What the composite effects leave alone, and the flags they leave -/

@[simp] theorem logicA_frame (f : Byte → Byte → Byte) (m : Byte) (s : State) :
    (logicA f m s).pc = s.pc ∧ (logicA f m s).x = s.x ∧ (logicA f m s).y = s.y ∧ (logicA f m s).sp = s.sp ∧
      (logicA f m s).p = setNZ (f s.a m) s.p ∧ (logicA f m s).resetDone = s.resetDone ∧
      (logicA f m s).plain = s.plain ∧ (logicA f m s).past = s.past ∧ (logicA f m s).requests = s.requests ∧
      (logicA f m s).event = s.event := by
  simp [logicA]

@[simp] theorem pullA_frame (s : State) :
    (pullA s).pc = s.pc ∧ (pullA s).x = s.x ∧ (pullA s).y = s.y ∧
      (pullA s).p = setNZ (pullA s).a s.p ∧ (pullA s).resetDone = s.resetDone ∧
      (pullA s).plain = s.plain ∧ (pullA s).past = s.past ∧ (pullA s).requests = s.requests ∧
      (pullA s).event = s.event := by
  simp [pullA]

@[simp] theorem pullP_frame (s : State) :
    (pullP s).pc = s.pc ∧ (pullP s).a = s.a ∧ (pullP s).x = s.x ∧ (pullP s).y = s.y ∧
      (pullP s).resetDone = s.resetDone ∧ (pullP s).plain = s.plain ∧ (pullP s).past = s.past ∧
      (pullP s).requests = s.requests ∧ (pullP s).event = s.event := by
  simp [pullP]

@[simp] theorem callSubroutine_frame (ea : Word) (s : State) :
    (callSubroutine ea s).a = s.a ∧ (callSubroutine ea s).x = s.x ∧ (callSubroutine ea s).y = s.y ∧
      (callSubroutine ea s).p = s.p ∧ (callSubroutine ea s).resetDone = s.resetDone ∧
      (callSubroutine ea s).plain = s.plain ∧ (callSubroutine ea s).past = s.past ∧
      (callSubroutine ea s).requests = s.requests ∧ (callSubroutine ea s).event = s.event := by
  simp [callSubroutine]

@[simp] theorem returnSubroutine_frame (s : State) :
    (returnSubroutine s).a = s.a ∧ (returnSubroutine s).x = s.x ∧ (returnSubroutine s).y = s.y ∧
      (returnSubroutine s).p = s.p ∧ (returnSubroutine s).resetDone = s.resetDone ∧
      (returnSubroutine s).plain = s.plain ∧ (returnSubroutine s).past = s.past ∧
      (returnSubroutine s).requests = s.requests ∧ (returnSubroutine s).event = s.event := by
  simp [returnSubroutine]

@[simp] theorem interruptReturn_frame (s : State) :
    (interruptReturn s).a = s.a ∧ (interruptReturn s).x = s.x ∧ (interruptReturn s).y = s.y ∧
      (interruptReturn s).resetDone = s.resetDone ∧ (interruptReturn s).plain = s.plain ∧
      (interruptReturn s).past = s.past ∧ (interruptReturn s).requests = s.requests ∧
      (interruptReturn s).event = s.event := by
  simp [interruptReturn]

@[simp] theorem interruptEntry_frame (vec : Word) (b : Bool) (s : State) :
    (interruptEntry vec b s).a = s.a ∧ (interruptEntry vec b s).x = s.x ∧ (interruptEntry vec b s).y = s.y ∧
      (interruptEntry vec b s).p = { s.p with i := true } ∧ (interruptEntry vec b s).resetDone = s.resetDone ∧
      (interruptEntry vec b s).plain = s.plain ∧ (interruptEntry vec b s).past = s.past ∧
      (interruptEntry vec b s).requests = s.requests ∧ (interruptEntry vec b s).event = s.event := by
  simp [interruptEntry]

/-! ## What a run of each shape writes

The resolver and a load write outputs alone, so `t` is `s` but for outputs, then the effect. A store to A needs the operand
Accumulator, which a well-formed STA, STX, STY, INC or DEC does not have. -/

theorem prepare_wf {i : Instr} {o : Operand} {s u : State} {d : Opd} (h : prepare i o s = some (d, u)) :
    i.wellFormed = true := by
  cases hw : i.wellFormed with
  | true => rfl
  | false => rw [prepare_illFormed hw] at h; cases h

/-- Only the operand Accumulator resolves to A (R403). -/
theorem resolve_opd_acc {o : Operand} {s : State} (h : (resolve o s).opd = .acc) : o = .accumulator := by
  cases o with
  | accumulator => rfl
  | _ => cases h

theorem prepare_acc {i : Instr} {o : Operand} {s u : State} (h : prepare i o s = some (.acc, u)) :
    o = .accumulator := by
  rw [prepare_wellFormed (prepare_wf h)] at h
  exact resolve_opd_acc (Prod.mk.inj (Option.some.inj h)).1

/-- A store writes A, or one byte on the bus. -/
theorem store_frame {d : Opd} {v : Byte} {s t : State} (h : store d v s = some t) :
    ∃ a mem acc, t = { s with a := a, mem := mem, accesses := acc } ∧ (d = .acc ∨ a = s.a) := by
  cases d with
  | acc => cases h; exact ⟨v, s.mem, s.accesses, rfl, .inl rfl⟩
  | mem ea => cases h; exact ⟨s.a, _, _, rfl, .inr rfl⟩
  | _ => cases h

theorem runRead_frame {i : Instr} {o : Operand} {f : Byte → State → State} {s t : State}
    (h : runRead i o f s = .next t) : ∃ m acc cyc, t = f m { s with accesses := acc, cycles := cyc } := by
  obtain ⟨m, u, hr, rfl⟩ := runRead_next h
  exact ⟨m, u.accesses, u.cycles, by rw [← readOperand_state hr]⟩

theorem runStore_frame {i : Instr} {o : Operand} {v : Byte} {s t : State} (h : runStore i o v s = .next t) :
    ∃ a mem acc cyc, t = { s with a := a, mem := mem, accesses := acc, cycles := cyc } ∧
      (i.wellFormed = true ∧ o = .accumulator ∨ a = s.a) := by
  obtain ⟨d, u, hp, hs⟩ := runStore_next h
  obtain ⟨a, mem, acc, rfl, ha⟩ := store_frame hs
  have hu := prepare_state hp
  refine ⟨a, mem, acc, u.cycles, by rw [hu], ha.imp ?_ ?_⟩
  · rintro rfl; exact ⟨prepare_wf hp, prepare_acc hp⟩
  · rintro rfl; rw [hu]

theorem runModify_frame {i : Instr} {o : Operand} {f : Byte → Status → Byte × Status} {s t : State}
    (h : runModify i o f s = .next t) :
    ∃ v a mem acc cyc, t = { s with a := a, mem := mem, accesses := acc, cycles := cyc, p := (f v s.p).2 } ∧
      (i.wellFormed = true ∧ o = .accumulator ∨ a = s.a) := by
  obtain ⟨d, u, v, w, t', hp, hl, hs, rfl⟩ := runModify_next h
  obtain ⟨a, mem, acc, rfl, ha⟩ := store_frame hs
  have hw : w = { s with accesses := w.accesses, cycles := u.cycles } := by
    rw [load_state hl, prepare_state hp]
  refine ⟨v, a, mem, acc, u.cycles, by rw [hw], ha.imp ?_ ?_⟩
  · rintro rfl; exact ⟨prepare_wf hp, prepare_acc hp⟩
  · rintro rfl; rw [hw]

theorem runJump_frame {i : Instr} {o : Operand} {f : Word → State → State} {s t : State}
    (h : runJump i o f s = .next t) : ∃ ea acc cyc, t = f ea { s with accesses := acc, cycles := cyc } := by
  obtain ⟨d, u, ea, hp, -, rfl⟩ := runJump_next h
  exact ⟨ea, u.accesses, u.cycles, by rw [← prepare_state hp]⟩

theorem runBranch_frame {i : Instr} {o : Operand} {c : Bool} {s t : State} (h : runBranch i o c s = .next t) :
    ∃ pc acc cyc, t = { s with pc := pc, accesses := acc, cycles := cyc } ∧ (pc = s.pc ∨ c = true) := by
  obtain ⟨d, u, b, hp, -, rfl⟩ := runBranch_next h
  have hu := prepare_state hp
  cases c with
  | false => exact ⟨s.pc, u.accesses, u.cycles, hu, .inl rfl⟩
  | true => exact ⟨_, u.accesses, _, by rw [hu]; rfl, .inr rfl⟩

theorem execUnmapped_frame {b : Byte} {s t : State} (h : execUnmapped b s = .next t) :
    ∃ pc cyc ev, t = { s with pc := pc, cycles := cyc, event := ev } := by
  have h := completed_next h
  split at h
  · cases h; exact ⟨_, _, _, rfl⟩
  · cases h

/-! ## Frames of the instructions -/

/-- Settles O53: by the shape of the instruction, and what its effect writes. -/
theorem registersChangeOnlyByTheirInstructions : Obligations.RegistersChangeOnlyByTheirInstructions := by
  intro i s t h
  unfold exec at h
  cases i
  case adc | sbc | and | eor | ora | lda | ldx | ldy | cmp | cpx | cpy | bit =>
    obtain ⟨m, acc, cyc, rfl⟩ := runRead_frame h
    simp [Instr.op]
  case sta | stx | sty =>
    obtain ⟨a, mem, acc, cyc, rfl, ⟨hw, rfl⟩ | rfl⟩ := runStore_frame h
    · cases hw
    · simp
  case inc | dec =>
    obtain ⟨v, a, mem, acc, cyc, rfl, ⟨hw, rfl⟩ | rfl⟩ := runModify_frame h
    · cases hw
    · simp
  case asl | lsr | rol | ror =>
    obtain ⟨v, a, mem, acc, cyc, rfl, ⟨-, rfl⟩ | rfl⟩ := runModify_frame h
    · simp [Instr.op, Instr.operand]
    · simp
  case jmp | jsr =>
    obtain ⟨ea, acc, cyc, rfl⟩ := runJump_frame h
    simp [Instr.op]
  case bcc | bcs | beq | bmi | bne | bpl | bvc | bvs =>
    obtain ⟨pc, acc, cyc, rfl, -⟩ := runBranch_frame h
    simp
  case unmapped =>
    obtain ⟨pc, cyc, ev, rfl⟩ := execUnmapped_frame h
    simp
  all_goals
    obtain rfl := runImplied_next h
    simp [Instr.op]

/-- Settles O54: by the shape of the instruction, and which flags its effect leaves. -/
theorem flagsChangeOnlyByTheirInstructions : Obligations.FlagsChangeOnlyByTheirInstructions := by
  intro i s t h
  unfold exec at h
  cases i
  case adc | sbc | and | eor | ora | lda | ldx | ldy | cmp | cpx | cpy | bit =>
    obtain ⟨m, acc, cyc, rfl⟩ := runRead_frame h
    simp [Instr.op]
  case sta | stx | sty =>
    obtain ⟨a, mem, acc, cyc, rfl, -⟩ := runStore_frame h
    simp
  case asl | lsr | rol | ror | inc | dec =>
    obtain ⟨v, a, mem, acc, cyc, rfl, -⟩ := runModify_frame h
    simp [Instr.op]
  case jmp | jsr =>
    obtain ⟨ea, acc, cyc, rfl⟩ := runJump_frame h
    simp
  case bcc | bcs | beq | bmi | bne | bpl | bvc | bvs =>
    obtain ⟨pc, acc, cyc, rfl, -⟩ := runBranch_frame h
    simp
  case unmapped =>
    obtain ⟨pc, cyc, ev, rfl⟩ := execUnmapped_frame h
    simp
  all_goals
    obtain rfl := runImplied_next h
    simp [Instr.op]

/-- Settles O55: by the shape of the instruction; a branch moves PC only on its condition. -/
theorem hiddenStateAndPcFrame : Obligations.HiddenStateAndPcFrame := by
  intro i s t h
  unfold exec at h
  cases i
  case adc | sbc | and | eor | ora | lda | ldx | ldy | cmp | cpx | cpy | bit =>
    obtain ⟨m, acc, cyc, rfl⟩ := runRead_frame h
    simp
  case sta | stx | sty =>
    obtain ⟨a, mem, acc, cyc, rfl, -⟩ := runStore_frame h
    simp
  case asl | lsr | rol | ror | inc | dec =>
    obtain ⟨v, a, mem, acc, cyc, rfl, -⟩ := runModify_frame h
    simp
  case jmp | jsr =>
    obtain ⟨ea, acc, cyc, rfl⟩ := runJump_frame h
    simp [Instr.op]
  case bcc | bcs | beq | bmi | bne | bpl | bvc | bvs =>
    obtain ⟨pc, acc, cyc, rfl, rfl | hc⟩ := runBranch_frame h
    · simp
    · simp [branchTaken, hc]
  case unmapped =>
    obtain ⟨pc, cyc, ev, rfl⟩ := execUnmapped_frame h
    simp
  all_goals
    obtain rfl := runImplied_next h
    simp [Instr.op]

/-! ## Every well-formed instruction completes -/

/-- The modes whose operand is an address (R405 to R414). -/
def memoryModes : List Mode :=
  [.zeroPage, .zeroPageX, .zeroPageY, .absolute, .absoluteX, .absoluteY, .indirect, .indirectX, .indirectY]

theorem resolve_memoryModes {o : Operand} (ho : o.mode ∈ memoryModes) (s : State) :
    ∃ ea, (resolve o s).opd = .mem ea := by
  cases o with
  | implied | accumulator | immediate | relative => simp [Operand.mode, memoryModes] at ho
  | _ => exact ⟨_, rfl⟩

/-- A mode that a well-formedness check admits lies in any list that contains the admitted ones. -/
theorem mem_of_contains {l l' : List Mode} {m : Mode} (h : l.contains m = true) (hl : l ⊆ l') : m ∈ l' :=
  hl (List.contains_iff_mem.1 h)

theorem runRead_completes {i : Instr} (f : Byte → State → State) (s : State) (hr : isReadClass i = true)
    (hw : i.wellFormed = true) : ∃ t, runRead i i.operand f s = .next t := by
  obtain ⟨m, u, h, -⟩ := readOperand_completes (s := s) hr hw
  exact ⟨f m u, by simp [runRead, h, completed]⟩

theorem runStore_completes {i : Instr} {o : Operand} (v : Byte) (s : State) (hw : i.wellFormed = true)
    (ho : o.mode ∈ memoryModes) : ∃ t, runStore i o v s = .next t := by
  obtain ⟨ea, h⟩ := resolve_memoryModes ho s
  exact ⟨_, by simp [runStore, prepare_wellFormed hw, h, store, completed]; rfl⟩

theorem runModify_completes {i : Instr} {o : Operand} (f : Byte → Status → Byte × Status) (s : State)
    (hw : i.wellFormed = true) (ho : o.mode ∈ Mode.accumulator :: memoryModes) :
    ∃ t, runModify i o f s = .next t := by
  obtain hacc | hmem := List.mem_cons.1 ho
  · obtain rfl : o = .accumulator := by
      cases o with
      | accumulator => rfl
      | _ => cases hacc
    exact ⟨_, by simp [runModify, prepare_wellFormed hw, resolve, load, store, completed]; rfl⟩
  · obtain ⟨ea, h⟩ := resolve_memoryModes hmem s
    exact ⟨_, by simp [runModify, prepare_wellFormed hw, h, load, store, completed]; rfl⟩

theorem runJump_completes {i : Instr} {o : Operand} (f : Word → State → State) (s : State)
    (hw : i.wellFormed = true) (ho : o.mode ∈ memoryModes) : ∃ t, runJump i o f s = .next t := by
  obtain ⟨ea, h⟩ := resolve_memoryModes ho s
  exact ⟨_, by simp [runJump, prepare_wellFormed hw, h, Opd.address, completed]; rfl⟩

theorem runBranch_completes {i : Instr} {o : Operand} (c : Bool) (s : State)
    (hw : i.wellFormed = true) (ho : o.mode ∈ [Mode.relative]) : ∃ t, runBranch i o c s = .next t := by
  cases o with
  | relative d => exact ⟨_, by simp [runBranch, prepare_wellFormed hw, resolve, Opd.displacement, completed]; rfl⟩
  | _ => simp [Operand.mode] at ho

/-- Every instruction of the core has a next state, in every state. -/
theorem exec_completes {i : Instr} (hw : i.wellFormed = true) (s : State) : ∃ t, exec i s = .next t := by
  unfold exec
  cases i
  case adc | sbc | and | eor | ora | lda | ldx | ldy | cmp | cpx | cpy | bit =>
    exact runRead_completes _ s rfl hw
  case sta | stx | sty => exact runStore_completes _ s hw (mem_of_contains hw (by decide))
  case asl | lsr | rol | ror | inc | dec => exact runModify_completes _ s hw (mem_of_contains hw (by decide))
  case jmp | jsr => exact runJump_completes _ s hw (mem_of_contains hw (by decide))
  case bcc | bcs | beq | bmi | bne | bpl | bvc | bvs =>
    exact runBranch_completes _ s hw (List.contains_iff_mem.1 hw)
  case unmapped => exact ⟨_, by simp only [execUnmapped, if_pos hw, completed]; rfl⟩
  all_goals exact ⟨_, rfl⟩

/-! ## Every transaction after RESET completes -/

/-- A fetch decodes the byte at PC with two bytes behind it, of which the decoder uses as many as the mode carries; it writes PC
and the access list alone. -/
theorem fetchInstr_frame (s : State) :
    ∃ b1 b2 pc acc, fetchInstr s = (decodeBytes (busValue s.pc s) b1 b2, { s with pc := pc, accesses := acc }) := by
  unfold fetchInstr
  dsimp only
  split
  · exact ⟨_, _, _, _, rfl⟩
  · exact ⟨_, 0, _, _, rfl⟩
  · exact ⟨_, _, _, _, rfl⟩

/-- Whatever the bus answers, a fetch gives an instruction of the core or the placeholder with an unmapped byte (R303). -/
theorem fetchInstr_wellFormed (s : State) : (fetchInstr s).1.wellFormed = true := by
  obtain ⟨b1, b2, pc, acc, h⟩ := fetchInstr_frame s
  rw [h]
  exact (decodeBytes_encode _ b1 b2).1

@[simp] theorem fetchInstr_resetDone (s : State) : (fetchInstr s).2.resetDone = s.resetDone := by
  obtain ⟨b1, b2, pc, acc, h⟩ := fetchInstr_frame s
  rw [h]

theorem stepInstr_completes {s : State} (h : s.resetDone = true) :
    ∃ t, stepInstr s = .next t ∧ t.resetDone = true := by
  obtain ⟨t, ht⟩ := exec_completes (fetchInstr_wellFormed (beginTransaction s)) (fetchInstr (beginTransaction s)).2
  obtain ⟨hr, -⟩ := hiddenStateAndPcFrame _ _ _ ht
  exact ⟨t, by simp [stepInstr, h, ht], by simpa [h] using hr⟩

theorem dispatchInterrupt_completes {k : Interrupt} {s : State} (h : s.resetDone = true) (hk : k ≠ .brk) :
    ∃ t, dispatchInterrupt k s = .next t ∧ t.resetDone = true := by
  cases k with
  | reset => exact ⟨_, rfl, rfl⟩
  | nmi => exact ⟨_, (if_pos h : dispatchNmi s = _), by simpa using h⟩
  | irq =>
    simp only [dispatchInterrupt, dispatchIrq, if_pos h]
    split
    · exact ⟨_, rfl, h⟩
    · exact ⟨_, rfl, by simpa using h⟩
  | brk => exact absurd rfl hk

/-- Settles O8: by the entry of `requests` at this boundary. A step completes since a fetch gives only well-formed
instructions, and no instruction writes `reset_done`. -/
theorem everyTransactionAfterResetCompletes : Obligations.EveryTransactionAfterResetCompletes := by
  intro s h hb
  unfold step
  split
  · next k rest hq =>
    exact dispatchInterrupt_completes h (by rintro rfl; exact hb rest hq)
  · exact stepInstr_completes h
  · exact stepInstr_completes h

/-! ## The byte image of P, and the state after reset -/

theorem pImage_toNat (b : Bool) (p : Status) : (pImage b p).toNat =
    128 * bit p.n + 64 * bit p.v + 32 + 16 * bit b + 8 * bit p.d + 4 * bit p.i + 2 * bit p.z + bit p.c := by
  obtain ⟨n, v, d, i, z, c⟩ := p
  revert b n v d i z c
  decide

theorem pLoad_pImage (b : Bool) (p : Status) : pLoad (pImage b p) = p := by
  obtain ⟨n, v, d, i, z, c⟩ := p
  revert b n v d i z c
  decide

/-- Settles O38: the two facts about the image are finite, the load reads each bit at its place. -/
theorem statusImageAndLoad : Obligations.StatusImageAndLoad :=
  ⟨pImage_toNat, fun _ => rfl, pLoad_pImage⟩

/-- Settles O11: both sides are closed terms, and the vector is plain memory at construction. -/
theorem resetStateIsTheResetDispatch : Obligations.ResetStateIsTheResetDispatch :=
  ⟨rfl, rfl, rfl, rfl, rfl, rfl, rfl, rfl, by decide, rfl⟩

end Sys2Proof.Proofs
end

section
/-! # Proofs about memory and the bus: what a whole transaction keeps

An instruction touches memory and the access list through bus reads and bus writes alone. So a property of these that a bus
read and a bus write keep is kept by every transaction (`step_keeps`), and one that a bus read keeps is kept by every form
that stores nothing (`exec_keeps`). The statements on the canonical form, on debug accesses and on the frame of memory are
instances of these two lemmas. -/

namespace Sys2Proof.Proofs

open Sys2Proof.Machine Sys2Proof.Claims Sys2Proof.Laws

/-! ## What an instruction's operand, a dispatch and a transaction can be -/

/-- The operand Accumulator is prepared as A (R403). -/
theorem prepare_accumulator {i : Instr} {s u : State} {d : Opd}
    (h : prepare i .accumulator s = some (d, u)) : d = .acc := by
  rw [prepare_wellFormed (prepare_wf h)] at h
  cases h
  rfl

/-- A dispatch that goes on is an interrupt entry (R902, R903), RESET's load of its vector (R910), or a suppressed IRQ. -/
theorem dispatchInterrupt_next {k : Interrupt} {s t : State} (h : dispatchInterrupt k s = .next t) :
    (∃ vec, t = { interruptEntry vec false s with cycles := dispatchCycles }) ∨
      t = { loadVector resetVector s with resetDone := true, cycles := dispatchCycles } ∨
      t = { s with cycles := 0 } := by
  cases k with
  | reset => cases h; exact .inr (.inl rfl)
  | nmi =>
    simp only [dispatchInterrupt, dispatchNmi] at h
    split at h
    · cases h; exact .inl ⟨_, rfl⟩
    · cases h
  | irq =>
    simp only [dispatchInterrupt, dispatchIrq] at h
    split at h
    · split at h
      · cases h; exact .inr (.inr rfl)
      · cases h; exact .inl ⟨_, rfl⟩
    · cases h
  | brk => cases h

theorem stepInstr_next {s t : State} (h : stepInstr s = .next t) :
    exec (fetchInstr (beginTransaction s)).1 (fetchInstr (beginTransaction s)).2 = .next t := by
  unfold stepInstr at h
  split at h
  · exact h
  · cases h

/-- A transaction that goes on is a dispatch or the run of a fetched instruction, after its start and a change of the
request list. -/
theorem step_next {s t : State} (h : step s = .next t) :
    ∃ q u, u = beginTransaction { s with requests := q } ∧
      ((∃ k, dispatchInterrupt k u = .next t) ∨ exec (fetchInstr u).1 (fetchInstr u).2 = .next t) := by
  unfold step at h
  split at h
  · exact ⟨_, _, rfl, .inl ⟨_, h⟩⟩
  · exact ⟨_, _, rfl, .inr (stepInstr_next h)⟩
  · exact ⟨s.requests, _, rfl, .inr (stepInstr_next h)⟩

/-! ## Properties that bus accesses keep -/

/-- A property of memory, of the plain addresses and of the access list, which a bus read keeps. -/
structure KeptByReads (P : State → Prop) : Prop where
  congr : ∀ {s t : State}, P s → t.mem = s.mem → t.plain = s.plain → t.accesses = s.accesses → P t
  busRead : ∀ {s : State} (a : Word), P s → P (busRead a s).2

/-- A property that a bus write keeps. -/
def KeptByWrites (P : State → Prop) : Prop := ∀ {s : State} (a : Word) (v : Byte), P s → P (busWrite a v s)

/-! ## The shared operations -/

section

variable {P : State → Prop} (hP : KeptByReads P)
include hP

theorem fetchByte_keeps {s : State} (hs : P s) : P (fetchByte s).2 :=
  hP.congr (hP.busRead s.pc hs) rfl rfl rfl

theorem fetchInstr_keeps {s : State} (hs : P s) : P (fetchInstr s).2 := by
  have h1 := fetchByte_keeps hP hs
  have h2 := fetchByte_keeps hP h1
  unfold fetchInstr
  dsimp only
  split
  · exact h1
  · exact h2
  · exact fetchByte_keeps hP h2

theorem readWord_keeps {s : State} (l h : Word) (hs : P s) : P (readWord l h s).2 :=
  hP.busRead h (hP.busRead l hs)

theorem loadVector_keeps {s : State} (vec : Word) (hs : P s) : P (loadVector vec s) :=
  hP.congr (readWord_keeps hP vec (vec + 1) hs) rfl rfl rfl

theorem pop_keeps {s : State} (hs : P s) : P (pop s).2 :=
  hP.busRead _ (hP.congr hs rfl rfl rfl)

theorem pullA_keeps {s : State} (hs : P s) : P (pullA s) :=
  hP.congr (pop_keeps hP hs) rfl rfl rfl

theorem pullP_keeps {s : State} (hs : P s) : P (pullP s) :=
  hP.congr (pop_keeps hP hs) rfl rfl rfl

theorem returnSubroutine_keeps {s : State} (hs : P s) : P (returnSubroutine s) :=
  hP.congr (pop_keeps hP (pop_keeps hP hs)) rfl rfl rfl

theorem interruptReturn_keeps {s : State} (hs : P s) : P (interruptReturn s) :=
  hP.congr (pop_keeps hP (pop_keeps hP (pop_keeps hP hs))) rfl rfl rfl

theorem push_keeps (hW : KeptByWrites P) {s : State} (v : Byte) (hs : P s) : P (push v s) :=
  hP.congr (hW (stackAddress s.sp) v hs) rfl rfl rfl

theorem callSubroutine_keeps (hW : KeptByWrites P) {s : State} (ea : Word) (hs : P s) : P (callSubroutine ea s) :=
  hP.congr (push_keeps hP hW _ (push_keeps hP hW _ hs)) rfl rfl rfl

theorem interruptEntry_keeps (hW : KeptByWrites P) {s : State} (vec : Word) (b : Bool) (hs : P s) :
    P (interruptEntry vec b s) := by
  have h1 := push_keeps hP hW (highByte s.pc) hs
  have h2 := push_keeps hP hW (lowByte s.pc) h1
  have h3 := push_keeps hP hW (pImage b s.p) h2
  exact loadVector_keeps hP vec (hP.congr h3 rfl rfl rfl)

/-! ## The resolver and the operand -/

theorem resolve_keeps {s : State} (o : Operand) (hs : P s) : P (resolve o s).state := by
  cases o with
  | indirect w => exact readWord_keeps hP _ _ hs
  | indirectX z => exact readWord_keeps hP _ _ hs
  | indirectY z => exact readWord_keeps hP _ _ hs
  | _ => exact hs

theorem prepare_keeps {i : Instr} {o : Operand} {s u : State} {d : Opd} (h : prepare i o s = some (d, u))
    (hs : P s) : P u := by
  rw [prepare_wellFormed (prepare_wf h)] at h
  cases h
  exact hP.congr (resolve_keeps hP o hs) rfl rfl rfl

theorem load_keeps {d : Opd} {s u : State} {v : Byte} (h : load d s = some (v, u)) (hs : P s) : P u := by
  cases d with
  | imm => cases h; exact hs
  | acc => cases h; exact hs
  | mem ea => cases h; exact hP.busRead ea hs
  | _ => cases h

/-- A store writes the bus unless it goes to A. -/
theorem store_keeps {d : Opd} {v : Byte} {s t : State} (h : store d v s = some t)
    (hW : d ≠ .acc → KeptByWrites P) (hs : P s) : P t := by
  cases d with
  | acc => cases h; exact hP.congr hs rfl rfl rfl
  | mem ea => cases h; exact hW Opd.noConfusion ea v hs
  | _ => cases h

/-! ## The shapes of instruction -/

theorem runRead_keeps {i : Instr} {o : Operand} {f : Byte → State → State} {s t : State}
    (h : runRead i o f s = .next t) (hf : ∀ m {u}, P u → P (f m u)) (hs : P s) : P t := by
  obtain ⟨m, u, hr, rfl⟩ := runRead_next h
  obtain ⟨⟨d, w⟩, hp, hl⟩ := Option.bind_eq_some_iff.1 hr
  exact hf m (load_keeps hP hl (prepare_keeps hP hp hs))

theorem runStore_keeps {i : Instr} {o : Operand} {v : Byte} {s t : State} (h : runStore i o v s = .next t)
    (hW : KeptByWrites P) (hs : P s) : P t := by
  obtain ⟨d, u, hp, hst⟩ := runStore_next h
  exact store_keeps hP hst (fun _ => hW) (prepare_keeps hP hp hs)

theorem runModify_keeps {i : Instr} {o : Operand} {f : Byte → Status → Byte × Status} {s t : State}
    (h : runModify i o f s = .next t) (hW : o ≠ .accumulator → KeptByWrites P) (hs : P s) : P t := by
  obtain ⟨d, u, v, w, t', hp, hl, hst, rfl⟩ := runModify_next h
  have ho : d ≠ .acc → o ≠ .accumulator := by
    rintro hd rfl
    exact hd (prepare_accumulator hp)
  exact hP.congr (store_keeps hP hst (fun hd => hW (ho hd)) (load_keeps hP hl (prepare_keeps hP hp hs)))
    rfl rfl rfl

theorem runJump_keeps {i : Instr} {o : Operand} {f : Word → State → State} {s t : State}
    (h : runJump i o f s = .next t) (hf : ∀ ea {u}, P u → P (f ea u)) (hs : P s) : P t := by
  obtain ⟨d, u, ea, hp, -, rfl⟩ := runJump_next h
  exact hf ea (prepare_keeps hP hp hs)

theorem takeBranch_keeps {s : State} (c : Bool) (d : Byte) (hs : P s) : P (takeBranch c d s) := by
  cases c with
  | false => exact hs
  | true => exact hP.congr hs rfl rfl rfl

theorem runBranch_keeps {i : Instr} {o : Operand} {c : Bool} {s t : State}
    (h : runBranch i o c s = .next t) (hs : P s) : P t := by
  obtain ⟨d, u, b, hp, -, rfl⟩ := runBranch_next h
  exact takeBranch_keeps hP c b (prepare_keeps hP hp hs)

/-! ## Instructions and transactions -/

/-- An instruction keeps what bus reads keep, and bus writes where it stores to memory. -/
theorem exec_keeps {i : Instr} {s t : State} (h : exec i s = .next t)
    (hW : storesMemory i → KeptByWrites P) (hs : P s) : P t := by
  unfold exec at h
  have hc {cyc : Nat} : P { s with cycles := cyc } := hP.congr hs rfl rfl rfl
  cases i
  case adc | sbc | and | eor | ora | lda | ldx | ldy | cmp | cpx | cpy | bit =>
    exact runRead_keeps hP h (fun _ _ hu => hP.congr hu rfl rfl rfl) hs
  case sta | stx | sty => exact runStore_keeps hP h (hW (.inl (by simp [Instr.op]))) hs
  case inc | dec => exact runModify_keeps hP h (fun _ => hW (.inl (by simp [Instr.op]))) hs
  case asl | lsr | rol | ror =>
    exact runModify_keeps hP h (fun ho => hW (.inr ⟨by simp [Instr.op], ho⟩)) hs
  case jmp => exact runJump_keeps hP h (fun _ _ hu => hP.congr hu rfl rfl rfl) hs
  case jsr => exact runJump_keeps hP h (fun ea _ hu => callSubroutine_keeps hP (hW (.inl (by simp [Instr.op]))) ea hu) hs
  case bcc | bcs | beq | bmi | bne | bpl | bvc | bvs => exact runBranch_keeps hP h hs
  case pha | php =>
    obtain rfl := runImplied_next h
    exact push_keeps hP (hW (.inl (by simp [Instr.op]))) _ hc
  case brk =>
    obtain rfl := runImplied_next h
    exact interruptEntry_keeps hP (hW (.inl (by simp [Instr.op]))) _ _ (hP.congr hs rfl rfl rfl)
  case pla => obtain rfl := runImplied_next h; exact pullA_keeps hP hc
  case plp => obtain rfl := runImplied_next h; exact pullP_keeps hP hc
  case rts => obtain rfl := runImplied_next h; exact returnSubroutine_keeps hP hc
  case rti => obtain rfl := runImplied_next h; exact interruptReturn_keeps hP hc
  case unmapped =>
    obtain ⟨pc, cyc, ev, rfl⟩ := execUnmapped_frame h
    exact hP.congr hs rfl rfl rfl
  all_goals
    obtain rfl := runImplied_next h
    exact hP.congr hs rfl rfl rfl

theorem dispatchInterrupt_keeps (hW : KeptByWrites P) {k : Interrupt} {s t : State}
    (h : dispatchInterrupt k s = .next t) (hs : P s) : P t := by
  obtain ⟨vec, rfl⟩ | rfl | rfl := dispatchInterrupt_next h
  · exact hP.congr (interruptEntry_keeps hP hW vec false hs) rfl rfl rfl
  · exact hP.congr (loadVector_keeps hP resetVector hs) rfl rfl rfl
  · exact hP.congr hs rfl rfl rfl

/-- A transaction that starts with what bus reads and bus writes keep ends with it. -/
theorem step_keeps (hW : KeptByWrites P) {s t : State} (h : step s = .next t)
    (hs : P (beginTransaction s)) : P t := by
  obtain ⟨q, u, rfl, ht⟩ := step_next h
  have hu : P (beginTransaction { s with requests := q }) := hP.congr hs rfl rfl rfl
  obtain ⟨k, hk⟩ | hi := ht
  · exact dispatchInterrupt_keeps hP hW hk hu
  · exact exec_keeps hP hi (fun _ => hW) (fetchInstr_keeps hP hu)

end

/-! ## The canonical form and the frame of memory -/

theorem keptByReads_wf : KeptByReads fun s => Memory.wf s.mem = true where
  congr hs hm _ _ := by rwa [hm]
  busRead _ hs := hs

/-- Settles O9: memory changes by bus writes alone, and a bus write keeps the canonical form (`busWrite_wf`). -/
theorem everyTransactionKeepsCanonicalMemory : Obligations.EveryTransactionKeepsCanonicalMemory :=
  fun _ _ hm h => step_keeps keptByReads_wf (fun _ _ => busWrite_wf) h hm

theorem peek_congr {s t : State} {a : Word} (hm : t.mem = s.mem) (hp : t.plain = s.plain) :
    t.peek a = s.peek a := by
  unfold State.peek State.isPlain
  rw [hm, hp]

theorem keptByReads_sameMemory (s : State) : KeptByReads (SameMemory s) where
  congr hs hm hp _ a := by
    rw [← hs a, peek_congr hm hp]
  busRead a hs b := by rw [busRead_peek, hs b]

/-- Settles O51: a form that stores nothing makes no bus write, and a bus read leaves every byte. -/
theorem onlyStoringFormsChangeMemory : Obligations.OnlyStoringFormsChangeMemory :=
  fun _ s _ h hn => exec_keeps (keptByReads_sameMemory s) h (fun hi => absurd hi hn) fun _ => rfl

/-! ## One bus access -/

/-- A write outside plain memory leaves every byte of it. -/
theorem busWrite_oracle_sameMemory {s : State} {a : Word} {v : Byte} (h : s.isPlain a = false) :
    SameMemory s (busWrite a v s) := by
  intro b
  simp only [State.peek, busWrite_isPlain, busWrite_oracle_mem h]

/-- Settles O13: the laws of one access, the two of a plain address through the byte it holds (`peek`). -/
theorem busReadsAndWrites : Obligations.BusReadsAndWrites := fun _ _ _ =>
  ⟨fun _ => busValue_of_peek,
   fun hp => ⟨busValue_oracle hp, busWrite_oracle_sameMemory hp⟩,
   fun hm hp => busValue_of_peek (busWrite_peek_same hm hp),
   fun _ => busWrite_peek_other,
   rfl, rfl⟩

/-! ## No debug access (R201) -/

/-- No access of the transaction so far was made with the debug flag. -/
def NoDebugAccess (s : State) : Prop := ∀ x ∈ s.accesses, isDebug x = false

theorem keptByReads_noDebugAccess : KeptByReads NoDebugAccess where
  congr hs _ _ ha := by rwa [NoDebugAccess, ha]
  busRead a hs := by
    rw [NoDebugAccess, busRead_accesses]
    exact List.forall_mem_append.2 ⟨hs, by simp [isDebug]⟩

theorem keptByWrites_noDebugAccess : KeptByWrites NoDebugAccess := by
  intro s a v hs
  rw [NoDebugAccess, busWrite_accesses]
  exact List.forall_mem_append.2 ⟨hs, by simp [isDebug]⟩

/-! ## The bound on the cycle count (R322, R1012)

The base count is at most 7. A page penalty comes on top for read-class instructions alone, whose base count is at most 6, and
up to two cycles for branches, whose base count is 2. -/

/-- The base count of an instruction is bounded by the rows of the operations it may be. -/
theorem baseCycles_le_of_rows {i : Instr} {n : Nat} (h : ∀ r ∈ opcodeTable, some r.op = i.op → r.cycles ≤ n) :
    i.baseCycles ≤ n := by
  unfold Instr.baseCycles Instr.row
  cases hop : i.op with
  | none => exact Nat.zero_le n
  | some op =>
    cases hr : rowOf op i.operand.mode with
    | none => simp [hr]
    | some r =>
      obtain ⟨hmem, hrop, -⟩ := rowOf_some hr
      simpa [hr] using h r hmem (by rw [hrop, hop])

theorem baseCycles_le_seven (i : Instr) : i.baseCycles ≤ 7 :=
  baseCycles_le_of_rows fun r hr _ => (by decide +kernel : ∀ r ∈ opcodeTable, r.cycles ≤ 7) r hr

/-- The read-class operations (R420). -/
def readOps : List Op := [.adc, .and, .cmp, .eor, .lda, .ora, .sbc, .ldx, .ldy, .bit, .cpx, .cpy]

theorem isReadClass_isOneOf {i : Instr} (h : isReadClass i = true) : IsOneOf i readOps := by
  cases i with
  | adc | and | cmp | eor | lda | ora | sbc | ldx | ldy | bit | cpx | cpy => simp [Instr.op, readOps]
  | _ => cases h

theorem baseCycles_le_of_isOneOf {i : Instr} {ops : List Op} {n : Nat} (hi : IsOneOf i ops)
    (h : ∀ r ∈ opcodeTable, r.op ∈ ops → r.cycles ≤ n) : i.baseCycles ≤ n :=
  baseCycles_le_of_rows fun r hr hop => h r hr (by rw [IsOneOf, ← hop] at hi; simpa using hi)

theorem baseCycles_add_pagePenalty_le_seven (i : Instr) (c : Bool) : i.baseCycles + pagePenalty i c ≤ 7 := by
  unfold pagePenalty
  split
  · next h =>
    have hr := isReadClass_isOneOf (Bool.and_eq_true_iff.1 h).2
    have := baseCycles_le_of_isOneOf (n := 6) hr (by decide +kernel)
    omega
  · exact baseCycles_le_seven i

theorem prepare_cycles {i : Instr} {o : Operand} {s u : State} {d : Opd} (h : prepare i o s = some (d, u)) :
    u.cycles = i.baseCycles + pagePenalty i (resolve o s).crossed := by
  rw [prepare_wellFormed (prepare_wf h)] at h
  cases h
  rfl

theorem prepare_cycles_le_seven {i : Instr} {o : Operand} {s u : State} {d : Opd}
    (h : prepare i o s = some (d, u)) : u.cycles ≤ 7 :=
  prepare_cycles h ▸ baseCycles_add_pagePenalty_le_seven i _

theorem load_cycles {d : Opd} {s u : State} {v : Byte} (h : load d s = some (v, u)) : u.cycles = s.cycles := by
  rw [load_state h]

theorem store_cycles {d : Opd} {v : Byte} {s t : State} (h : store d v s = some t) : t.cycles = s.cycles := by
  obtain ⟨a, mem, acc, rfl, -⟩ := store_frame h
  rfl

theorem runRead_cycles_le_seven {i : Instr} {o : Operand} {f : Byte → State → State} {s t : State}
    (h : runRead i o f s = .next t) (hf : ∀ m u, (f m u).cycles = u.cycles) : t.cycles ≤ 7 := by
  obtain ⟨m, u, hr, rfl⟩ := runRead_next h
  obtain ⟨⟨d, w⟩, hp, hl⟩ := Option.bind_eq_some_iff.1 hr
  rw [hf, load_cycles hl]
  exact prepare_cycles_le_seven hp

theorem runImplied_cycles_le_seven {i : Instr} {f : State → State} {s t : State}
    (h : runImplied i f s = .next t) (hf : ∀ u, (f u).cycles = u.cycles) : t.cycles ≤ 7 := by
  obtain rfl := runImplied_next h
  rw [hf]
  exact baseCycles_le_seven i

theorem runStore_cycles_le_seven {i : Instr} {o : Operand} {v : Byte} {s t : State}
    (h : runStore i o v s = .next t) : t.cycles ≤ 7 := by
  obtain ⟨d, u, hp, hs⟩ := runStore_next h
  rw [store_cycles hs]
  exact prepare_cycles_le_seven hp

theorem runModify_cycles_le_seven {i : Instr} {o : Operand} {f : Byte → Status → Byte × Status} {s t : State}
    (h : runModify i o f s = .next t) : t.cycles ≤ 7 := by
  obtain ⟨d, u, v, w, t', hp, hl, hs, rfl⟩ := runModify_next h
  change t'.cycles ≤ 7
  rw [store_cycles hs, load_cycles hl]
  exact prepare_cycles_le_seven hp

theorem runJump_cycles_le_seven {i : Instr} {o : Operand} {f : Word → State → State} {s t : State}
    (h : runJump i o f s = .next t) (hf : ∀ ea u, (f ea u).cycles = u.cycles) : t.cycles ≤ 7 := by
  obtain ⟨d, u, ea, hp, -, rfl⟩ := runJump_next h
  rw [hf]
  exact prepare_cycles_le_seven hp

theorem takeBranch_cycles_le (c : Bool) (d : Byte) (s : State) : (takeBranch c d s).cycles ≤ s.cycles + 2 := by
  unfold takeBranch
  dsimp only
  split
  · split <;> simp
  · exact Nat.le_add_right _ 2

theorem runBranch_cycles_le_seven {i : Instr} {o : Operand} {c : Bool} {s t : State}
    (h : runBranch i o c s = .next t) (hi : IsOneOf i [.bcc, .bcs, .beq, .bmi, .bne, .bpl, .bvc, .bvs])
    (hr : isReadClass i = false) : t.cycles ≤ 7 := by
  obtain ⟨d, u, b, hp, -, rfl⟩ := runBranch_next h
  have hbase : i.baseCycles ≤ 2 := baseCycles_le_of_isOneOf hi (by decide +kernel)
  have hcyc : u.cycles = i.baseCycles := by simp [prepare_cycles hp, pagePenalty, hr]
  have := takeBranch_cycles_le c b u
  omega

theorem unmappedCycles_le_one : unmappedCycles ≤ 1 := by
  unfold unmappedCycles
  split <;> decide

theorem execUnmapped_cycles {b : Byte} {s t : State} (h : execUnmapped b s = .next t) :
    t.cycles = unmappedCycles := by
  have h := completed_next h
  split at h
  · cases h; rfl
  · cases h

theorem exec_cycles_le_seven {i : Instr} {s t : State} (h : exec i s = .next t) : t.cycles ≤ 7 := by
  unfold exec at h
  cases i
  case adc | sbc | and | eor | ora | lda | ldx | ldy | cmp | cpx | cpy | bit =>
    exact runRead_cycles_le_seven h fun _ _ => rfl
  case sta | stx | sty => exact runStore_cycles_le_seven h
  case asl | lsr | rol | ror | inc | dec => exact runModify_cycles_le_seven h
  case jmp | jsr => exact runJump_cycles_le_seven h fun _ _ => rfl
  case bcc | bcs | beq | bmi | bne | bpl | bvc | bvs =>
    exact runBranch_cycles_le_seven h (by simp [Instr.op]) rfl
  case unmapped =>
    rw [execUnmapped_cycles h]
    exact unmappedCycles_le_one.trans (by decide)
  all_goals exact runImplied_cycles_le_seven h fun _ => rfl

theorem dispatchInterrupt_cycles_le_seven {k : Interrupt} {s t : State}
    (h : dispatchInterrupt k s = .next t) : t.cycles ≤ 7 := by
  obtain ⟨vec, rfl⟩ | rfl | rfl := dispatchInterrupt_next h
  · exact Nat.le_refl 7
  · exact Nat.le_refl 7
  · exact Nat.zero_le 7

theorem step_cycles_le_seven {s t : State} (h : step s = .next t) : t.cycles ≤ 7 := by
  obtain ⟨q, u, -, ⟨k, hk⟩ | hi⟩ := step_next h
  · exact dispatchInterrupt_cycles_le_seven hk
  · exact exec_cycles_le_seven hi

/-- Settles O10: a transaction starts with no access and adds none with the debug flag; the count is by the shape of the
instruction, or a dispatch's. -/
theorem noDebugAccessAndAtMostSevenCycles : Obligations.NoDebugAccessAndAtMostSevenCycles := fun _ _ h =>
  ⟨step_keeps keptByReads_noDebugAccess keptByWrites_noDebugAccess h (by simp [NoDebugAccess]),
   step_cycles_le_seven h⟩

end Sys2Proof.Proofs
end

section
/-! # Proofs about the encoding and the fetch

The decoder reads an opcode byte and as many operand bytes as that byte tells. `decode_eq_ok_iff` says so once, in terms of
`operandCount` and `decodeBytes`; the round trips in both directions are uses of it with the facts about the opcode table. A
fetch is a run of reads of consecutive addresses whose bytes the decoder takes in full (`fetchInstr_eq`); the statements on the
fetch and on a step without a request follow from it. -/

namespace Sys2Proof.Proofs

open Sys2Proof.Machine Sys2Proof.Claims Sys2Proof.Laws

/-! ## The decoder on a list of bytes -/

/-- An opcode byte with the operand bytes it tells decodes, whatever follows. -/
theorem decode_cons {b : Byte} {ops : List Byte} (rest : List Byte) (h : ops.length = operandCount b) :
    decode (b :: (ops ++ rest)) = .ok (decodeBytes b (ops.getD 0 0) (ops.getD 1 0), rest) := by
  match ops with
  | [] | [_] | [_, _] => simp [decode, ← h]
  | _ :: _ :: _ :: _ =>
    have := operandCount_le b
    simp only [List.length_cons] at h
    omega

/-- What decodes is an opcode byte, the operand bytes it tells, and the rest. -/
theorem decode_eq_ok_iff {bs : List Byte} {i : Instr} {rest : List Byte} :
    decode bs = .ok (i, rest) ↔
      ∃ b ops, ops.length = operandCount b ∧ bs = b :: (ops ++ rest) ∧
        i = decodeBytes b (ops.getD 0 0) (ops.getD 1 0) := by
  constructor
  · intro h
    unfold decode at h
    split at h
    · cases h
    · next b tail =>
      split at h
      · next h0 => cases h; exact ⟨b, [], h0.symm, rfl, rfl⟩
      · next b1 _ h1 => cases h; exact ⟨b, [b1], h1.symm, rfl, rfl⟩
      · next b1 b2 _ h2 => cases h; exact ⟨b, [b1, b2], h2.symm, rfl, rfl⟩
      · cases h
  · rintro ⟨b, ops, h, rfl, rfl⟩
    exact decode_cons rest h

/-! ## From an instruction to its bytes and back -/

theorem operandCount_row {r : Row} (hr : r ∈ opcodeTable) : operandCount r.opcode = r.mode.operandBytes := by
  simp only [operandCount, rowOfByte_row r hr]

theorem decodeBytes_row {r : Row} (hr : r ∈ opcodeTable) (b1 b2 : Byte) :
    decodeBytes r.opcode b1 b2 = r.op.instr (r.mode.operand b1 b2) := by
  simp only [decodeBytes, rowOfByte_row r hr]

/-- An operand is that of its mode from its own bytes. -/
theorem operand_of_bytes (o : Operand) : o.mode.operand (o.bytes.getD 0 0) (o.bytes.getD 1 0) = o := by
  cases o <;> simp [Operand.mode, Operand.bytes, Mode.operand]

/-- A well-formed instruction is encoded as an opcode byte, which tells how many operand bytes it has, and its operand bytes;
these decode to it. -/
theorem encode_wellFormed {i : Instr} (h : i.wellFormed = true) :
    ∃ b, encode i = b :: i.operand.bytes ∧ i.operand.bytes.length = operandCount b ∧
      i = decodeBytes b (i.operand.bytes.getD 0 0) (i.operand.bytes.getD 1 0) := by
  obtain ⟨b, rfl, hb⟩ | ⟨op, r, hop, hr⟩ := wellFormed_row h
  · have hnone := (rowOfByte_none b).1 hb
    exact ⟨b, rfl, by simp only [operandCount, hnone]; rfl, by simp only [decodeBytes, hnone]⟩
  · obtain ⟨hmem, rfl, hmode⟩ := rowOf_some hr
    refine ⟨r.opcode, encode_of_row hop hr, ?_, ?_⟩
    · rw [operandCount_row hmem, operand_bytes_length, hmode]
    · rw [decodeBytes_row hmem, hmode, operand_of_bytes, instr_of_op hop]

/-- Settles O1: the bytes of a well-formed instruction are an opcode byte and the operand bytes it tells. -/
theorem everyInstructionDecodesFromItsBytes : Obligations.EveryInstructionDecodesFromItsBytes := by
  intro i rest h
  obtain ⟨b, henc, hlen, hdec⟩ := encode_wellFormed h
  exact decode_eq_ok_iff.2 ⟨b, i.operand.bytes, hlen, by rw [henc]; rfl, hdec⟩

/-- The operand bytes that the decoder takes up are those it was given. -/
theorem take_getD {ops : List Byte} (h : ops.length ≤ 2) : [ops.getD 0 0, ops.getD 1 0].take ops.length = ops := by
  match ops with
  | [] | [_] | [_, _] => rfl

/-- Settles O2: what decodes is an opcode byte and its operand bytes, which `decodeBytes_encode` gives back; of three bytes
there are always as many as the opcode byte tells. -/
theorem decodingIsTotalAndGivesOnlyInstructions : Obligations.DecodingIsTotalAndGivesOnlyInstructions := by
  constructor
  · intro bs i rest h
    obtain ⟨b, ops, hlen, rfl, rfl⟩ := decode_eq_ok_iff.1 h
    obtain ⟨hwf, henc⟩ := decodeBytes_encode b (ops.getD 0 0) (ops.getD 1 0)
    refine ⟨hwf, ?_⟩
    rw [henc, ← hlen, take_getD (hlen ▸ operandCount_le b)]
    rfl
  · intro b0 b1 b2
    have hle := operandCount_le b0
    have hlen : ([b1, b2].take (operandCount b0)).length = operandCount b0 := by simpa using hle
    have h := decode_cons ([b1, b2].drop (operandCount b0)) hlen
    rw [List.take_append_drop] at h
    exact ⟨_, _, h⟩

/-! ## The opcode table and the source's vectors -/

/-- That a byte has a row of an operation, as a condition that evaluates. -/
theorem exists_row_op {b : Byte} {op : Op} :
    (∃ r, rowOfByte b = some r ∧ r.op = op) ↔ (rowOfByte b).map Row.op = some op :=
  Option.map_eq_some_iff.symm

/-- Settles O3: the table is finite data, and so are the 256 bytes. -/
theorem opcodeTableIsUnambiguous : Obligations.OpcodeTableIsUnambiguous := by
  unfold Obligations.OpcodeTableIsUnambiguous
  simp only [exists_row_op]
  refine ⟨?_, ?_, ?_⟩
  · decide +kernel
  · decide +kernel
  · decide +kernel

theorem wordOf_eq_word (l h : Byte) : wordOf l h = word l h := by
  have := l.isLt
  have := h.isLt
  apply BitVec.eq_of_toNat_eq
  rw [wordOf_toNat, word, BitVec.toNat_ofNat]
  omega

/-- Settles O4: the decoder evaluates on each opcode byte, and `wordOf_eq_word` gives the address as a number. -/
theorem sourceVectorsDecode : Obligations.SourceVectorsDecode := by
  refine ⟨rfl, rfl, fun _ => rfl, ?_, ?_⟩
  · intro l h
    rw [← wordOf_eq_word]
    rfl
  · intro l h
    rw [← wordOf_eq_word]
    rfl

/-! ## Reads of consecutive addresses -/

/-- The bytes that so many reads of consecutive addresses give, from `a` on. -/
def readBytes : Nat → Word → State → List Byte
  | 0, _, _ => []
  | n + 1, a, s => busValue a s :: readBytes n (a + 1) (busRead a s).2

/-- The accesses of reads that gave these bytes at consecutive addresses, from `a` on. -/
def readAccesses (a : Word) (bs : List Byte) : List Access :=
  bs.mapIdx fun k b => .read (a + BitVec.ofNat 16 k) b false

theorem succ_add_ofNat (a : Word) (k : Nat) : a + 1 + BitVec.ofNat 16 k = a + BitVec.ofNat 16 (k + 1) := by
  rw [BitVec.add_assoc, BitVec.ofNat_add, BitVec.add_comm 1]
  rfl

@[simp] theorem readBytes_length (n : Nat) (a : Word) (s : State) : (readBytes n a s).length = n := by
  induction n generalizing a s with
  | zero => rfl
  | succ n ih => simp [readBytes, ih]

/-- Byte `k` is what the bus answers at its address after the reads before it. -/
theorem readBytes_getElem {n : Nat} {a : Word} {s : State} {k : Nat} (h : k < (readBytes n a s).length) :
    (readBytes n a s)[k] = busValue (a + BitVec.ofNat 16 k) (afterReads k a s) := by
  induction n generalizing a s k with
  | zero => cases h
  | succ n ih =>
    cases k with
    | zero => simp [readBytes, afterReads]
    | succ k => simp only [readBytes, List.getElem_cons_succ, ih, afterReads, succ_add_ofNat]

theorem readAccesses_cons (a : Word) (b : Byte) (bs : List Byte) :
    readAccesses a (b :: bs) = .read a b false :: readAccesses (a + 1) bs := by
  have hzero : a + BitVec.ofNat 16 0 = a := BitVec.add_zero a
  simp only [readAccesses, List.mapIdx_cons, succ_add_ofNat, hzero]

/-- Reads of consecutive addresses add their accesses and change nothing else. -/
theorem afterReads_eq (n : Nat) (a : Word) (s : State) :
    afterReads n a s = { s with accesses := s.accesses ++ readAccesses a (readBytes n a s) } := by
  induction n generalizing a s with
  | zero => simp [afterReads, readBytes, readAccesses]
  | succ n ih => simp [afterReads, readBytes, readAccesses_cons, ih, busRead]

@[simp] theorem afterReads_peek (n : Nat) (a b : Word) (s : State) : (afterReads n a s).peek b = s.peek b := by
  rw [afterReads_eq]
  rfl

/-- Where plain memory holds a list of bytes, the reads give that list. -/
theorem readBytes_of_peek {bs : List Byte} {a : Word} {s : State}
    (h : ∀ k, (hk : k < bs.length) → s.peek (a + BitVec.ofNat 16 k) = some bs[k]) :
    readBytes bs.length a s = bs := by
  refine List.ext_getElem (readBytes_length _ _ _) fun k _ hk => ?_
  rw [readBytes_getElem]
  exact busValue_of_peek (by rw [afterReads_peek, h k hk])

/-! ## The fetch -/

/-- The bytes of a fetch: the opcode byte at PC and the operand bytes it tells (R308). -/
def fetchedBytes (s : State) : List Byte := readBytes (operandCount (busValue s.pc s) + 1) s.pc s

/-- The bytes of a fetch decode in full to the instruction it gives, and the state behind it is that after their reads, PC
behind them. -/
theorem fetchInstr_eq (s : State) :
    decode (fetchedBytes s) = .ok ((fetchInstr s).1, []) ∧
      (fetchInstr s).2 =
        { afterReads (fetchedBytes s).length s.pc s with pc := s.pc + BitVec.ofNat 16 (fetchedBytes s).length } := by
  have hdec := decode_cons [] (readBytes_length (operandCount (busValue s.pc s)) (s.pc + 1) (busRead s.pc s).2)
  rw [List.append_nil] at hdec
  have hle := operandCount_le (busValue s.pc s)
  unfold fetchedBytes
  rw [readBytes_length, readBytes, hdec]
  unfold fetchInstr
  simp only [fetchByte_value]
  obtain h | h | h : operandCount (busValue s.pc s) = 0 ∨ operandCount (busValue s.pc s) = 1 ∨
      operandCount (busValue s.pc s) = 2 := by omega
  · rw [h]
    exact ⟨rfl, rfl⟩
  · rw [h, ← succ_add_ofNat s.pc 1]
    exact ⟨rfl, rfl⟩
  · rw [h, ← succ_add_ofNat s.pc 2, ← succ_add_ofNat (s.pc + 1) 1]
    exact ⟨rfl, rfl⟩

theorem fetchedBytes_length (s : State) : (fetchedBytes s).length = operandCount (busValue s.pc s) + 1 :=
  readBytes_length _ _ _

/-- A fetch adds its reads to the access list and moves PC behind the bytes; it changes nothing else (R320). -/
theorem fetchInstr_state (s : State) :
    (fetchInstr s).2 =
      { s with
        pc := s.pc + BitVec.ofNat 16 (fetchedBytes s).length
        accesses := s.accesses ++ readAccesses s.pc (fetchedBytes s) } := by
  rw [(fetchInstr_eq s).2, afterReads_eq, fetchedBytes_length]
  rfl

/-- What an instruction fetched was encoded as is what was fetched. -/
theorem encode_fetchInstr (s : State) : encode (fetchInstr s).1 = fetchedBytes s := by
  rw [← List.append_nil (encode _)]
  exact (decodingIsTotalAndGivesOnlyInstructions.1 _ _ _ (fetchInstr_eq s).1).2

/-- Settles O5: the bytes are those that reads of consecutive addresses give. -/
theorem fetchReadsOpcodeThenOperandBytes : Obligations.FetchReadsOpcodeThenOperandBytes := by
  intro s
  refine ⟨fetchedBytes s, ?_, fun k hk => readBytes_getElem hk, (fetchInstr_eq s).1, ?_, ?_, ?_⟩
  · rw [fetchedBytes_length, Nat.add_comm]
  · rw [fetchInstr_state]
  · rw [fetchInstr_state]; rfl
  · rw [fetchInstr_state]; rfl

/-! ## A step without a request -/

theorem step_of_request {s : State} {k : Interrupt} {rest : List (Option Interrupt)} (h : s.requests = some k :: rest) :
    step s = dispatchInterrupt k (beginTransaction { s with requests := none :: rest }) := by
  simp only [step, h]

/-- A step without a request uses the entry of its boundary up and runs an instruction (R320). -/
theorem step_of_noRequest {s : State} (h : NoRequest s) : step s = stepInstr { s with requests := s.requests.tail } := by
  obtain hnil | ⟨rest, hnone⟩ := h
  · simp only [step, hnil, List.tail_nil]
    rw [← hnil]
  · simp only [step, hnone, List.tail_cons]

theorem stepInstr_of_not_resetDone {s : State} (h : s.resetDone = false) : stepInstr s = .fault .notReset := by
  simp [stepInstr, h]

/-- After RESET it runs what is fetched in a transaction that has made no access yet. -/
theorem step_eq_exec_fetchInstr {s u : State} (hreset : s.resetDone = true) (hreq : NoRequest s)
    (hu : u = beginTransaction { s with requests := s.requests.tail }) :
    step s = exec (fetchInstr u).1 (fetchInstr u).2 := by
  subst hu
  rw [step_of_noRequest hreq]
  exact if_pos hreset

/-- Where the bytes at PC are those of a well-formed instruction, a fetch reads them. -/
theorem fetchedBytes_of_peek {i : Instr} {s : State} (hw : i.wellFormed = true)
    (h : ∀ k, (hk : k < (encode i).length) → s.peek (s.pc + BitVec.ofNat 16 k) = some (encode i)[k]) :
    fetchedBytes s = encode i := by
  obtain ⟨b, henc, hlen, -⟩ := encode_wellFormed hw
  have hread := readBytes_of_peek h
  rw [henc, List.length_cons, hlen] at hread
  have hopcode : busValue s.pc s = b := (List.cons.inj hread).1
  rw [fetchedBytes, hopcode, hread, henc]

/-- Such a fetch gives that instruction. -/
theorem fetchInstr_of_fetchedBytes {i : Instr} {s : State} (hw : i.wellFormed = true)
    (h : fetchedBytes s = encode i) : (fetchInstr s).1 = i := by
  have hdec := (fetchInstr_eq s).1
  rw [h, ← List.append_nil (encode i), everyInstructionDecodesFromItsBytes i [] hw] at hdec
  cases hdec
  rfl

/-- Settles O6: a fetch of these bytes decodes to the instruction, and its reads are the accesses made so far. -/
theorem stepRunsTheInstructionAtPc : Obligations.StepRunsTheInstructionAtPc := by
  intro s hreset hreq
  have hstep := step_eq_exec_fetchInstr hreset hreq rfl
  refine ⟨hstep, fun i hw hpeek => ?_⟩
  have hbytes : fetchedBytes (beginTransaction { s with requests := s.requests.tail }) = encode i :=
    fetchedBytes_of_peek hw hpeek
  rw [hstep, fetchInstr_of_fetchedBytes hw hbytes, fetchInstr_state, hbytes]
  rfl

/-- An encoded instruction is its opcode and the operand bytes of its mode (R301). -/
theorem encode_length {i : Instr} (h : i.wellFormed = true) :
    (encode i).length = i.operand.mode.operandBytes + 1 := by
  obtain ⟨b, henc, -, -⟩ := encode_wellFormed h
  rw [henc, List.length_cons, operand_bytes_length]

/-- A fetch moves PC by as many bytes as the mode of what it gives tells (R323). -/
theorem fetchInstr_pc_toNat (s : State) :
    (fetchInstr s).2.pc.toNat = (s.pc.toNat + (1 + (fetchInstr s).1.operand.mode.operandBytes)) % 65536 := by
  rw [fetchInstr_state, ← encode_fetchInstr, encode_length (fetchInstr_wellFormed s), Nat.add_comm 1]
  simp only [BitVec.toNat_add, BitVec.toNat_ofNat, Nat.add_mod_mod]

theorem branchTaken_congr (i : Instr) {s t : State} (h : t.p = s.p) : branchTaken i t = branchTaken i s := by
  unfold branchTaken
  rw [h]

/-- Settles O56: the instruction leaves PC where the fetch put it. -/
theorem stepAdvancesPcByTheLength : Obligations.StepAdvancesPcByTheLength := by
  intro s t hreset hreq hstep i hops hbranch hmapped
  rw [step_eq_exec_fetchInstr hreset hreq rfl] at hstep
  obtain ⟨-, -, -, -, -, hpc | hjump | htaken | ⟨b, hb⟩⟩ := hiddenStateAndPcFrame _ _ _ hstep
  · rw [hpc]
    exact fetchInstr_pc_toNat _
  · exact absurd hjump hops
  · rw [branchTaken_congr (s := s) _ (by rw [fetchInstr_state]; rfl)] at htaken
    exact absurd htaken (by rw [hbranch]; decide)
  · exact absurd hb (hmapped b)

/-- Settles O7: by the entry of `requests` at this boundary. -/
theorem notResetAndBadRequest : Obligations.NotResetAndBadRequest := by
  intro s
  refine ⟨fun hreset hreq => ?_, fun hreset rest hreq => ?_, fun rest hreq => ?_⟩
  · rw [step_of_noRequest hreq]
    exact stepInstr_of_not_resetDone hreset
  · obtain hnmi | hirq := hreq
    · rw [step_of_request hnmi]
      simp [dispatchInterrupt, dispatchNmi, hreset]
    · rw [step_of_request hirq]
      simp [dispatchInterrupt, dispatchIrq, hreset]
  · rw [step_of_request hreq]
    rfl

end Sys2Proof.Proofs
end

section
/-! # Proofs about the addressing modes: what the resolver gives, and what is read and stored there

The model makes an address by widths and bytes; the statements give it as a number. The first lemmas tie the two, one for each
form of address (R302, R409, R412, R752). The rest says what a shape of instruction does at the address the resolver gives. -/

namespace Sys2Proof.Proofs

open Sys2Proof.Machine Sys2Proof.Claims Sys2Proof.Laws

/-! ## Addresses as numbers -/

theorem zeroPageAddress_eq (z : Byte) : zeroPageAddress z = BitVec.ofNat 16 z.toNat :=
  (BitVec.ofNat_toNat 16 z).symm

/-- An index is added in page 0 (R406, R407). -/
theorem zeroPageAddress_add (z i : Byte) :
    zeroPageAddress (z + i) = BitVec.ofNat 16 ((z.toNat + i.toNat) % 256) := by
  rw [zeroPageAddress_eq, BitVec.toNat_add]

/-- The high byte of a pointer comes from the next address of the same page (R412). -/
theorem nextInPage_eq (w : Word) :
    wordOf (lowByte w + 1) (highByte w) = BitVec.ofNat 16 (w.toNat / 256 * 256 + (w.toNat + 1) % 256) := by
  have hlow : (lowByte w + 1).toNat = (w.toNat + 1) % 256 := by
    rw [BitVec.toNat_add, lowByte_toNat]
    exact Nat.mod_add_mod ..
  have := w.isLt
  apply BitVec.eq_of_toNat_eq
  rw [wordOf_toNat, hlow, highByte_toNat, BitVec.toNat_ofNat]
  omega

theorem pageCrossed_eq (a b : Word) : pageCrossed a b = decide (a.toNat / 256 ≠ b.toNat / 256) := by
  have hiff : highByte a = highByte b ↔ a.toNat / 256 = b.toNat / 256 := by
    rw [← highByte_toNat, ← highByte_toNat, BitVec.toNat_inj]
  rw [Bool.eq_iff_iff]
  simp [pageCrossed, hiff]

/-- An index is added modulo 65536, and crosses when the high byte changes (R409, R410, R415). -/
theorem indexed_eq (base : Word) (index : Byte) (s : State) :
    indexed base index s =
      ⟨.mem (BitVec.ofNat 16 ((base.toNat + index.toNat) % 65536)),
        decide (base.toNat / 256 ≠ (base.toNat + index.toNat) % 65536 / 256), s⟩ := by
  have hnum : (base + index.setWidth 16).toNat = (base.toNat + index.toNat) % 65536 := by
    simp
  have hea : base + index.setWidth 16 = BitVec.ofNat 16 ((base.toNat + index.toNat) % 65536) := by
    rw [← hnum, BitVec.ofNat_toNat, BitVec.setWidth_eq]
  rw [indexed, pageCrossed_eq, hnum, hea]

theorem stackAddress_eq_page1 (sp : Byte) : stackAddress sp = page1 sp := by
  have := sp.isLt
  apply BitVec.eq_of_toNat_eq
  rw [stackAddress_toNat, page1, BitVec.toNat_ofNat]
  omega

/-! ## The resolver -/

/-- Settles O14: a zero-page address as a number, the index added in page 0; the other modes are the resolver's own equations. -/
theorem resolveDirectModes : Obligations.ResolveDirectModes := by
  intro s b w
  rw [← zeroPageAddress_eq, ← zeroPageAddress_add, ← zeroPageAddress_add]
  exact ⟨rfl, rfl, rfl, rfl, rfl, rfl, rfl, rfl⟩

/-- Settles O15: both modes add their index register alike (`indexed_eq`). -/
theorem resolveIndexedAbsolute : Obligations.ResolveIndexedAbsolute := fun s w =>
  ⟨indexed_eq w s.x s, indexed_eq w s.y s⟩

/-- A word read from two addresses: its value, and two accesses, low byte first, which change nothing else (R204, R421). -/
theorem readWord_eq {lowAt highAt l h : Word} (hl : lowAt = l) (hh : highAt = h) (s : State) :
    (readWord lowAt highAt s).1 = word (busValue l s) (busValue h (busRead l s).2) ∧
      OnlyOutputs s (readWord lowAt highAt s).2 ∧
      (readWord lowAt highAt s).2.accesses =
        s.accesses ++ [.read l (busValue l s) false, .read h (busValue h (busRead l s).2) false] := by
  subst hl hh
  refine ⟨wordOf_eq_word _ _, rfl, ?_⟩
  simp [readWord]

theorem word_toNat (l h : Byte) : (word l h).toNat = h.toNat * 256 + l.toNat := by
  rw [← wordOf_eq_word, wordOf_toNat]

/-- Settles O16: each mode reads the word at its two addresses (`readWord_eq`), and IndirectY indexes it (`indexed_eq`). -/
theorem resolvePointerModes : Obligations.ResolvePointerModes := by
  intro s b w
  refine ⟨?indirect, ?indirectX, ?indirectY⟩
  case indirect =>
    obtain ⟨hword, hframe, hacc⟩ := readWord_eq rfl (nextInPage_eq w) s
    exact ⟨congrArg Opd.mem hword, rfl, hframe, hacc⟩
  case indirectX =>
    have hhigh := zeroPageAddress_add (b + s.x) 1
    rw [BitVec.toNat_add] at hhigh
    obtain ⟨hword, hframe, hacc⟩ := readWord_eq (zeroPageAddress_add b s.x) hhigh s
    exact ⟨congrArg Opd.mem hword, rfl, hframe, hacc⟩
  case indirectY =>
    obtain ⟨hword, hframe, hacc⟩ := readWord_eq (zeroPageAddress_eq b) (zeroPageAddress_add b 1) s
    dsimp only
    rw [resolve, readZeroPagePointer, indexed_eq, hword, word_toNat]
    exact ⟨rfl, rfl, hframe, hacc⟩

/-! ## The operand of a read-class instruction -/

/-- A read-class instruction has an immediate value or an operand in memory (R420). -/
theorem readClass_modes {i : Instr} (hr : isReadClass i = true) (hw : i.wellFormed = true) :
    i.operand.mode ∈ Mode.immediate :: memoryModes := by
  cases i with
  | adc | sbc | and | eor | ora | lda | ldx | ldy | cmp | cpx | cpy | bit => exact mem_of_contains hw (by decide)
  | _ => cases hr

theorem readOperand_immediate {i : Instr} (v : Byte) (s : State) (hw : i.wellFormed = true) :
    ∃ u, readOperand i (.immediate v) s = some (v, u) ∧ u.accesses = s.accesses := by
  rw [readOperand, prepare_wellFormed hw]
  exact ⟨_, rfl, rfl⟩

/-- An operand in memory is read once, after the accesses of the resolver (R401, R421). -/
theorem readOperand_memory {i : Instr} {o : Operand} {s : State} {ea : Word} (hw : i.wellFormed = true)
    (h : (resolve o s).opd = .mem ea) :
    ∃ u, readOperand i o s = some (busValue ea (resolve o s).state, u) ∧
      u.accesses = (resolve o s).state.accesses ++ [.read ea (busValue ea (resolve o s).state) false] := by
  rw [readOperand, prepare_wellFormed hw, h]
  exact ⟨_, rfl, rfl⟩

/-- Settles O17: by the mode of the operand. -/
theorem readClassLoadsItsOperandOnce : Obligations.ReadClassLoadsItsOperandOnce := by
  intro i s hr hw
  obtain himm | hmem := List.mem_cons.1 (readClass_modes hr hw)
  · obtain ⟨v, hv⟩ : ∃ v, i.operand = .immediate v := by
      cases ho : i.operand with
      | immediate v => exact ⟨v, rfl⟩
      | _ => rw [ho] at himm; cases himm
    rw [hv]
    exact .inl ⟨v, rfl, readOperand_immediate v s hw⟩
  · obtain ⟨ea, hea⟩ := resolve_memoryModes hmem s
    exact .inr ⟨ea, hea, readOperand_memory hw hea⟩

/-! ## Terms that are no instruction -/

section

variable {i : Instr} (hw : i.wellFormed = false) (o : Operand) (s : State)
include hw

theorem runRead_illFormed (f : Byte → State → State) : runRead i o f s = .refused .illFormed := by
  simp [runRead, readOperand, prepare_illFormed hw, completed]

theorem runStore_illFormed (v : Byte) : runStore i o v s = .refused .illFormed := by
  simp [runStore, prepare_illFormed hw, completed]

theorem runModify_illFormed (f : Byte → Status → Byte × Status) : runModify i o f s = .refused .illFormed := by
  simp [runModify, prepare_illFormed hw, completed]

theorem runJump_illFormed (f : Word → State → State) : runJump i o f s = .refused .illFormed := by
  simp [runJump, prepare_illFormed hw, completed]

theorem runBranch_illFormed (c : Bool) : runBranch i o c s = .refused .illFormed := by
  simp [runBranch, prepare_illFormed hw, completed]

end

/-- Settles O12: no shape prepares the operand of such a term; the other instructions are well formed. -/
theorem illFormedTermsAreRefused : Obligations.IllFormedTermsAreRefused := by
  intro i s hw
  unfold exec
  cases i
  case adc | sbc | and | eor | ora | lda | ldx | ldy | cmp | cpx | cpy | bit => exact runRead_illFormed hw _ s _
  case sta | stx | sty => exact runStore_illFormed hw _ s _
  case asl | lsr | rol | ror | inc | dec => exact runModify_illFormed hw _ s _
  case jmp | jsr => exact runJump_illFormed hw _ s _
  case bcc | bcs | beq | bmi | bne | bpl | bvc | bvs => exact runBranch_illFormed hw _ s _
  case unmapped => simp [execUnmapped, hw, completed]
  all_goals cases hw

/-! ## The bytes of a storing form -/

/-- What is prepared is what the resolver gives (R400). -/
theorem prepare_opd {i : Instr} {o : Operand} {s u : State} {d : Opd} (h : prepare i o s = some (d, u)) :
    d = (resolve o s).opd := by
  rw [prepare_wellFormed (prepare_wf h)] at h
  cases h
  rfl

theorem prepare_sameMemory {i : Instr} {o : Operand} {s u : State} {d : Opd} (h : prepare i o s = some (d, u)) :
    SameMemory s u :=
  prepare_keeps (keptByReads_sameMemory s) h fun _ => rfl

/-- A store leaves every byte but the one at its address (R401). -/
theorem store_peek_other {d : Opd} {v : Byte} {s t : State} {ea a : Word} (h : store d v s = some t)
    (hea : d.address = some ea) (ha : a ≠ ea) : t.peek a = s.peek a := by
  cases d with
  | mem ea' => cases h; cases hea; exact busWrite_peek_other ha
  | _ => cases hea

theorem runStore_peek_other {i : Instr} {o : Operand} {v : Byte} {s t : State} {ea a : Word}
    (h : runStore i o v s = .next t) (hea : (resolve o s).opd.address = some ea) (ha : a ≠ ea) :
    t.peek a = s.peek a := by
  obtain ⟨d, u, hp, hs⟩ := runStore_next h
  obtain rfl := prepare_opd hp
  rw [store_peek_other hs hea ha, prepare_sameMemory hp]

theorem runModify_peek_other {i : Instr} {o : Operand} {f : Byte → Status → Byte × Status} {s t : State} {ea a : Word}
    (h : runModify i o f s = .next t) (hea : (resolve o s).opd.address = some ea) (ha : a ≠ ea) :
    t.peek a = s.peek a := by
  obtain ⟨d, u, v, w, t', hp, hl, hs, rfl⟩ := runModify_next h
  obtain rfl := prepare_opd hp
  have hw : SameMemory s w := load_keeps (keptByReads_sameMemory s) hl (prepare_sameMemory hp)
  exact (store_peek_other hs hea ha).trans (hw a)

/-- A push leaves every byte but the one at S in page 1 (R750). -/
theorem push_peek_of_ne_page1 {v : Byte} {s : State} {a : Word} (h : a ≠ page1 s.sp) : (push v s).peek a = s.peek a :=
  push_peek_other (by rwa [stackAddress_eq_page1])

theorem callSubroutine_peek_other {ea a : Word} {s : State} (h0 : a ≠ page1 s.sp) (h1 : a ≠ page1 (s.sp - 1)) :
    (callSubroutine ea s).peek a = s.peek a :=
  calc (callSubroutine ea s).peek a
    _ = (push (lowByte (s.pc - 1)) (push (highByte (s.pc - 1)) s)).peek a := rfl
    _ = (push (highByte (s.pc - 1)) s).peek a := push_peek_of_ne_page1 h1
    _ = s.peek a := push_peek_of_ne_page1 h0

theorem interruptEntry_peek_other {vec a : Word} {b : Bool} {s : State} (h0 : a ≠ page1 s.sp)
    (h1 : a ≠ page1 (s.sp - 1)) (h2 : a ≠ page1 (s.sp - 2)) : (interruptEntry vec b s).peek a = s.peek a := by
  have hsp : s.sp - 1 - 1 = s.sp - 2 := sub_sub ..
  rw [← hsp] at h2
  calc (interruptEntry vec b s).peek a
    _ = (push (pImage b s.p) (push (lowByte s.pc) (push (highByte s.pc) s))).peek a := rfl
    _ = (push (lowByte s.pc) (push (highByte s.pc) s)).peek a := push_peek_of_ne_page1 h2
    _ = (push (highByte s.pc) s).peek a := push_peek_of_ne_page1 h1
    _ = s.peek a := push_peek_of_ne_page1 h0

/-- Settles O52: by the shape of the storing form; every other instruction is none of those named. -/
theorem storingFormsChangeOnlyTheirBytes : Obligations.StoringFormsChangeOnlyTheirBytes := by
  intro i s t h
  unfold exec at h
  cases i
  case sta | stx | sty =>
    exact ⟨fun ea _ hea a ha => runStore_peek_other h hea ha, by simp [Instr.op]⟩
  case asl | lsr | rol | ror | inc | dec =>
    exact ⟨fun ea _ hea a ha => runModify_peek_other h hea ha, by simp [Instr.op]⟩
  case pha | php =>
    obtain rfl := runImplied_next h
    exact ⟨by simp [Instr.op], fun _ a ha => push_peek_of_ne_page1 ha, by simp [Instr.op]⟩
  case jsr =>
    obtain ⟨d, u, ea, hp, -, rfl⟩ := runJump_next h
    have hsp : u.sp = s.sp := by rw [prepare_state hp]
    rw [← hsp]
    exact ⟨by simp [Instr.op], by simp [Instr.op],
      fun _ a h0 h1 => (callSubroutine_peek_other h0 h1).trans (prepare_sameMemory hp a), by simp [Instr.op]⟩
  case brk =>
    obtain rfl := runImplied_next h
    exact ⟨by simp [Instr.op], by simp [Instr.op], by simp [Instr.op],
      fun _ a h0 h1 h2 => interruptEntry_peek_other h0 h1 h2⟩
  all_goals simp [Instr.op]

end Sys2Proof.Proofs
end

section
/-! # Proofs about arithmetic and logic

A statement of this family gives the opcode rows of an operation and its effect on the operand. `encodes_of_rows` and
`runsOnOperand_of_runRead` say once how each follows from the model; what is left is that the model's effect, computed on bit
vectors, is the statement's, in numbers. SBC is ADC of the complement (R451), so its law is that of ADC in other numbers. -/

namespace Sys2Proof.Proofs

open Sys2Proof.Machine Sys2Proof.Claims Sys2Proof.Laws

/-! ## The rows and the run of an instruction with an operand -/

/-- The rows of an operation are those of the opcode table when its modes are theirs and each is found by its pair (R305). -/
theorem encodes_of_rows {mk : Operand → Instr} {op : Op} {rows : List (Mode × Byte × Nat)}
    (hop : ∀ o, (mk o).op = some op) (hoperand : ∀ o, (mk o).operand = o)
    (hmodes : ∀ o, (mk o).wellFormed = (rows.map (·.1)).contains o.mode)
    (hrows : ∀ r ∈ rows, rowOf op r.1 = some ⟨r.2.1, op, r.1, r.2.2⟩) : Encodes mk rows := by
  intro o
  refine ⟨by rw [hmodes, List.contains_iff_mem], fun r hr ho => ?_⟩
  have hrow : rowOf op (mk o).operand.mode = some ⟨r.2.1, op, r.1, r.2.2⟩ := by rw [hoperand, ho, hrows r hr]
  refine ⟨by rw [encode_of_row (hop o) hrow, hoperand], ?_⟩
  simp only [Instr.baseCycles, Instr.row, hop, hrow]

/-- A read-class instruction runs on its operand, with an effect that may be given in terms of the state before it. -/
theorem runsOnOperand_of_runRead {i : Instr} {s : State} {f effect : Byte → State → State}
    (hr : isReadClass i = true) (hw : i.wellFormed = true) (hexec : exec i s = runRead i i.operand f s)
    (heff : ∀ m acc cyc, f m { s with accesses := acc, cycles := cyc } =
      effect m { s with accesses := acc, cycles := cyc }) : RunsOnOperand i s effect := by
  obtain ⟨m, u, hread, hcyc⟩ := readOperand_completes (s := s) hr hw
  have hu := readOperand_state hread
  have heff : f m u = effect m u := by rw [hu, heff]
  refine ⟨m, u, hread, hu, hcyc, ?_⟩
  rw [hexec, ← heff]
  simp [runRead, hread, completed]

/-! ## N and Z, and the sum with carry, as numbers -/

theorem getLsbD_seven (b : Byte) : b.getLsbD 7 = decide (128 ≤ b.toNat) :=
  (BitVec.msb_eq_getLsbD_last b).symm.trans (BitVec.msb_eq_decide b)

theorem setNZ_eq_nz (r : Byte) (p : Status) : setNZ r p = nz r p := by
  have hz : (r == 0) = decide (r.toNat = 0) := by
    rw [Bool.eq_iff_iff]
    simp [← BitVec.toNat_inj]
  rw [setNZ, nz, hz, getLsbD_seven]

theorem bit_le_one (b : Bool) : bit b ≤ 1 := by cases b <;> decide

/-- The nine-bit sum of ADC, which loses nothing (R450). -/
theorem nineBitSum_toNat (a m : Byte) (c : Bool) :
    (a.setWidth 9 + m.setWidth 9 + (if c then 1 else 0) : BitVec 9).toNat = a.toNat + m.toNat + bit c := by
  have := a.isLt
  have := m.isLt
  cases c <;> simp [bit] <;> omega

/-- V of a sum with carry: the operands agree in their top bit and the result does not, which is when the exact signed sum is
out of range (R450, R455). -/
theorem overflow_eq_outside (a m : Byte) {c : Nat} (hc : c ≤ 1) :
    ((~~~(a ^^^ m)) &&& (a ^^^ byte (a.toNat + m.toNat + c))).getLsbD 7 =
      decide (outside (a.toInt + m.toInt + c)) := by
  have := a.isLt
  have := m.isLt
  have hr : (byte (a.toNat + m.toNat + c)).toNat = (a.toNat + m.toNat + c) % 256 := BitVec.toNat_ofNat ..
  rw [BitVec.toInt_eq_toNat_cond, BitVec.toInt_eq_toNat_cond, Bool.eq_iff_iff]
  simp only [BitVec.getLsbD_and, BitVec.getLsbD_not, BitVec.getLsbD_xor]
  simp only [getLsbD_seven, hr, outside]
  by_cases ha : 128 ≤ a.toNat <;> by_cases hm : 128 ≤ m.toNat <;> simp [ha, hm] <;> omega

/-- ADC in exact integers (R450, R455). -/
theorem setA_addWithCarry (m : Byte) (u : State) :
    setA (addWithCarry u.a m u.p) u =
      arithmetic (byte (u.a.toNat + m.toNat + bit u.p.c)) (256 ≤ u.a.toNat + m.toNat + bit u.p.c)
        (outside (u.a.toInt + m.toInt + bit u.p.c)) u := by
  have hsum := nineBitSum_toNat u.a m u.p.c
  have hres : (u.a.setWidth 9 + m.setWidth 9 + (if u.p.c then 1 else 0) : BitVec 9).setWidth 8 =
      byte (u.a.toNat + m.toNat + bit u.p.c) := by
    rw [← hsum]; rfl
  have hcarry : (u.a.setWidth 9 + m.setWidth 9 + (if u.p.c then 1 else 0) : BitVec 9).getLsbD 8 =
      decide (256 ≤ u.a.toNat + m.toNat + bit u.p.c) := by
    rw [← hsum]
    exact (BitVec.msb_eq_getLsbD_last _).symm.trans (BitVec.msb_eq_decide _)
  simp only [addWithCarry, hres, hcarry, overflow_eq_outside _ _ (bit_le_one _), setNZ_eq_nz]
  rfl

theorem arithmetic_congr {r r' : Byte} {carry carry' overflow overflow' : Prop} [Decidable carry] [Decidable carry']
    [Decidable overflow] [Decidable overflow'] (hr : r = r') (hc : carry ↔ carry') (ho : overflow ↔ overflow')
    (u : State) : arithmetic r carry overflow u = arithmetic r' carry' overflow' u := by
  simp only [arithmetic, hr, hc, ho]

/-- SBC is ADC of the complement, which is the difference with borrow (R451, R455). -/
theorem setA_addWithCarry_not (m : Byte) (u : State) :
    setA (addWithCarry u.a (~~~m) u.p) u =
      arithmetic (BitVec.ofInt 8 (u.a.toNat - m.toNat - (1 - bit u.p.c : Int)))
        (m.toNat + (1 - bit u.p.c) ≤ u.a.toNat)
        (outside (u.a.toInt - m.toInt - (1 - bit u.p.c : Int))) u := by
  have := m.isLt
  have := bit_le_one u.p.c
  have hnot : (~~~m).toNat = 255 - m.toNat := BitVec.toNat_not
  have hneg : (~~~m).toInt = -1 - m.toInt := by
    rw [BitVec.toInt_eq_toNat_cond, BitVec.toInt_eq_toNat_cond, hnot]
    omega
  rw [setA_addWithCarry]
  refine arithmetic_congr ?_ ?_ ?_ u
  · apply BitVec.eq_of_toNat_eq
    rw [byte, BitVec.toNat_ofNat, BitVec.toNat_ofInt, hnot]
    omega
  · rw [hnot]
    omega
  · rw [hneg, outside, outside]
    omega

/-- Settles O18: both operations by the law of the sum with carry, SBC through the complement. -/
theorem adcAndSbcFollowTheArithmeticLaws : Obligations.AdcAndSbcFollowTheArithmeticLaws := by
  refine ⟨?_, ?_, fun o s => ⟨fun hw => ?_, fun hw => ?_⟩⟩
  · exact encodes_of_rows (fun _ => rfl) (fun _ => rfl) (fun _ => rfl) (by decide +kernel)
  · exact encodes_of_rows (fun _ => rfl) (fun _ => rfl) (fun _ => rfl) (by decide +kernel)
  · exact runsOnOperand_of_runRead (f := fun m u => setA (addWithCarry u.a m u.p) u) rfl hw rfl
      fun m _ _ => setA_addWithCarry m _
  · exact runsOnOperand_of_runRead (f := fun m u => setA (addWithCarry u.a (~~~m) u.p) u) rfl hw rfl
      fun m _ _ => setA_addWithCarry_not m _

theorem logicA_eq_nz (f : Byte → Byte → Byte) (m : Byte) (u : State) :
    logicA f m u = { u with a := f u.a m, p := nz (f u.a m) u.p } := by
  rw [logicA, setNZ_eq_nz]
  rfl

/-- Settles O19: the three operations differ in the bitwise function alone. -/
theorem logicOperationsOnA : Obligations.LogicOperationsOnA := by
  refine ⟨?_, ?_, ?_, fun o s => ⟨fun hw => ?_, fun hw => ?_, fun hw => ?_⟩⟩
  · exact encodes_of_rows (fun _ => rfl) (fun _ => rfl) (fun _ => rfl) (by decide +kernel)
  · exact encodes_of_rows (fun _ => rfl) (fun _ => rfl) (fun _ => rfl) (by decide +kernel)
  · exact encodes_of_rows (fun _ => rfl) (fun _ => rfl) (fun _ => rfl) (by decide +kernel)
  · exact runsOnOperand_of_runRead rfl hw rfl fun m _ _ => logicA_eq_nz _ m _
  · exact runsOnOperand_of_runRead rfl hw rfl fun m _ _ => logicA_eq_nz _ m _
  · exact runsOnOperand_of_runRead rfl hw rfl fun m _ _ => logicA_eq_nz _ m _

end Sys2Proof.Proofs
end

section
/-! # Proofs about the Decimal flag

Two runs of one instruction, the second from the state with D replaced (`withDecimal`). Most instructions commute with the
replacement, by one lemma per shape of instruction; CLD, SED, PLP and RTI write D, and end in the same state. PHP and BRK push an
image of P: the rest of the part says that the two images differ in bit 3, and follows that byte through the push and, for
BRK, past the read of a vector in plain memory (R456, R110, R112). -/

namespace Sys2Proof.Proofs

open Sys2Proof.Machine Sys2Proof.Claims Sys2Proof.Laws

/-- The state with its Decimal flag replaced. -/
def withDecimal (d : Bool) (s : State) : State := { s with p := { s.p with d := d } }

/-! ## Instructions that do not read D -/

theorem resolve_withDecimal (o : Operand) (d : Bool) (s : State) :
    resolve o (withDecimal d s) = { resolve o s with state := withDecimal d (resolve o s).state } := by
  cases o <;> rfl

section

variable {i : Instr} {o : Operand} {q : Opd} {v : Byte} {s t u : State} (d : Bool)

theorem prepare_withDecimal (h : prepare i o s = some (q, u)) :
    prepare i o (withDecimal d s) = some (q, withDecimal d u) := by
  have hw := prepare_wf h
  rw [prepare_wellFormed hw] at h ⊢
  rw [resolve_withDecimal]
  cases h
  rfl

theorem load_withDecimal (h : load q s = some (v, u)) : load q (withDecimal d s) = some (v, withDecimal d u) := by
  cases q with
  | imm | acc | mem => cases h; rfl
  | _ => cases h

theorem store_withDecimal (h : store q v s = some t) : store q v (withDecimal d s) = some (withDecimal d t) := by
  cases q with
  | acc | mem => cases h; rfl
  | _ => cases h

theorem runRead_withDecimal {f : Byte → State → State} (h : runRead i o f s = .next t)
    (hf : ∀ m u, f m (withDecimal d u) = withDecimal d (f m u)) :
    runRead i o f (withDecimal d s) = .next (withDecimal d t) := by
  obtain ⟨m, u, hr, rfl⟩ := runRead_next h
  obtain ⟨⟨q, w⟩, hp, hl⟩ := Option.bind_eq_some_iff.1 hr
  simp [runRead, readOperand, prepare_withDecimal d hp, load_withDecimal d hl, hf, completed]

theorem runStore_withDecimal (h : runStore i o v s = .next t) :
    runStore i o v (withDecimal d s) = .next (withDecimal d t) := by
  obtain ⟨q, u, hp, hs⟩ := runStore_next h
  simp [runStore, prepare_withDecimal d hp, store_withDecimal d hs, completed]

theorem runModify_withDecimal {f : Byte → Status → Byte × Status} (h : runModify i o f s = .next t)
    (hf : ∀ v p, f v { p with d := d } = ((f v p).1, { (f v p).2 with d := d })) :
    runModify i o f (withDecimal d s) = .next (withDecimal d t) := by
  obtain ⟨q, u, v, w, t', hp, hl, hs, rfl⟩ := runModify_next h
  have hfw : f v (withDecimal d w).p = ((f v w.p).1, { (f v w.p).2 with d := d }) := hf v w.p
  simp only [runModify, prepare_withDecimal d hp, load_withDecimal d hl, Option.bind_some, hfw,
    store_withDecimal d hs, Option.map_some]
  rfl

theorem runJump_withDecimal {f : Word → State → State} (h : runJump i o f s = .next t)
    (hf : ∀ ea u, f ea (withDecimal d u) = withDecimal d (f ea u)) :
    runJump i o f (withDecimal d s) = .next (withDecimal d t) := by
  obtain ⟨q, u, ea, hp, ha, rfl⟩ := runJump_next h
  simp [runJump, prepare_withDecimal d hp, ha, hf, completed]

theorem takeBranch_withDecimal (c : Bool) (b : Byte) (s : State) :
    takeBranch c b (withDecimal d s) = withDecimal d (takeBranch c b s) := by
  cases c <;> rfl

theorem runBranch_withDecimal {c : Bool} (h : runBranch i o c s = .next t) :
    runBranch i o c (withDecimal d s) = .next (withDecimal d t) := by
  obtain ⟨q, u, b, hp, hb, rfl⟩ := runBranch_next h
  simp [runBranch, prepare_withDecimal d hp, hb, takeBranch_withDecimal, completed]

theorem runImplied_withDecimal {f : State → State} (h : runImplied i f s = .next t)
    (hf : ∀ u, f (withDecimal d u) = withDecimal d (f u)) :
    runImplied i f (withDecimal d s) = .next (withDecimal d t) := by
  obtain rfl := runImplied_next h
  rw [← hf]
  rfl

theorem execUnmapped_withDecimal {b : Byte} (h : execUnmapped b s = .next t) :
    execUnmapped b (withDecimal d s) = .next (withDecimal d t) := by
  unfold execUnmapped at h ⊢
  have h := completed_next h
  split at h
  · next hw => cases h; rw [if_pos hw]; rfl
  · cases h

/-- An instruction that neither writes D nor pushes it does the same with D replaced (R456). -/
theorem exec_withDecimal (h : exec i s = .next t) (hi : ¬ IsOneOf i [.cld, .sed, .plp, .rti])
    (hp : ¬ IsOneOf i [.php, .brk]) : exec i (withDecimal d s) = .next (withDecimal d t) := by
  unfold exec at h ⊢
  cases i
  case adc | sbc | and | eor | ora | lda | ldx | ldy | cmp | cpx | cpy | bit =>
    exact runRead_withDecimal d h fun _ _ => rfl
  case sta | stx | sty => exact runStore_withDecimal d h
  case asl | lsr | rol | ror | inc | dec => exact runModify_withDecimal d h fun _ _ => rfl
  case jmp | jsr => exact runJump_withDecimal d h fun _ _ => rfl
  case bcc | bcs | beq | bmi | bne | bpl | bvc | bvs => exact runBranch_withDecimal d h
  case unmapped => exact execUnmapped_withDecimal d h
  case cld | sed | plp | rti => simp [Instr.op] at hi
  case php | brk => simp [Instr.op] at hp
  all_goals exact runImplied_withDecimal d h fun _ => rfl

/-- An instruction that writes D does not read it. -/
theorem exec_withDecimal_of_writesDecimal (hi : IsOneOf i [.cld, .sed, .plp, .rti]) :
    exec i (withDecimal d s) = exec i s := by
  cases i
  case cld | sed | plp | rti => rfl
  all_goals simp [Instr.op] at hi

end

/-! ## The pushed image of P -/

theorem flagAt_getLsbD (b : Bool) {k : Nat} (hk : k < 8) (j : Nat) :
    (flagAt b k).getLsbD j = (b && decide (j = k)) := by
  cases b with
  | false => simp [flagAt]
  | true =>
    have hpow : flagAt true k = BitVec.twoPow 8 k := rfl
    rw [hpow, BitVec.getLsbD_twoPow]
    simp [hk, eq_comm]

/-- Bit 3 of the image is D (R110, R112). -/
theorem pImage_bit_three (b : Bool) (p : Status) : (pImage b p).toNat.testBit 3 = p.d := by
  simp only [BitVec.testBit_toNat, pImage, BitVec.getLsbD_or, flagAt_getLsbD, Nat.reduceLT]
  simp

/-- No other bit of the image depends on D. -/
theorem pImage_bit_other (b d : Bool) (p : Status) {k : Nat} (hk : k ≠ 3) :
    (pImage b { p with d := d }).toNat.testBit k = (pImage b p).toNat.testBit k := by
  simp only [BitVec.testBit_toNat, pImage, BitVec.getLsbD_or, flagAt_getLsbD, Nat.reduceLT, hk, decide_false,
    Bool.and_false]

theorem isPlain_congr {s t : State} (h : t.plain = s.plain) (a : Word) : t.isPlain a = s.isPlain a := by
  rw [State.isPlain, h, State.isPlain]

/-- Two states whose memory is as after a push of the image of P on one state `r`, with D as it is in `s` and replaced, and
whose accesses are the same but for that push. -/
theorem differInPushedD_of_push {s r t u : State} {q : Word} {b d : Bool} {earlier later : List Access}
    (hq : q = page1 r.sp) (hwf : Memory.wf s.mem = true → Memory.wf r.mem = true) (hplain : r.plain = s.plain)
    (ht : t.accesses = s.accesses ++ earlier ++ .write q (pImage b s.p) false :: later)
    (hu : u.accesses = s.accesses ++ earlier ++ .write q (pImage b { s.p with d := d }) false :: later)
    (hpt : SameMemory (push (pImage b s.p) r) t) (hpu : SameMemory (push (pImage b { s.p with d := d }) r) u) :
    DifferInPushedD s t u q d := by
  have hstack : q = stackAddress r.sp := hq.trans (stackAddress_eq_page1 r.sp).symm
  refine ⟨earlier, later, _, _, ht, hu, pImage_bit_three b s.p, pImage_bit_three b _,
    fun k hk => pImage_bit_other b d s.p hk, fun a ha => ?_, fun hm hqp => ?_⟩
  · rw [hstack] at ha
    rw [hpt, hpu, push_peek_other ha, push_peek_other ha]
  · rw [← isPlain_congr hplain, hstack] at hqp
    rw [hpt, hpu, hstack]
    exact ⟨push_peek_same (hwf hm) hqp, push_peek_same (hwf hm) hqp⟩

/-! ## The interrupt entry -/

/-- The part of an interrupt entry before the image of P: the return address is pushed (R904). -/
def returnPushed (s : State) : State := push (lowByte s.pc) (push (highByte s.pc) s)

theorem interruptEntry_eq (vec : Word) (b : Bool) (s : State) :
    interruptEntry vec b s =
      loadVector vec { push (pImage b s.p) (returnPushed s) with p := { s.p with i := true } } := rfl

theorem returnPushed_sp (s : State) : (returnPushed s).sp = s.sp - 2 := sub_sub ..

theorem interruptEntry_sameMemory (vec : Word) (b : Bool) (s : State) :
    SameMemory (push (pImage b s.p) (returnPushed s)) (interruptEntry vec b s) := fun _ => rfl

/-- No address above page 1 is in it (R752). -/
theorem ne_page1_of_le {a : Word} (h : 512 ≤ a.toNat) (sp : Byte) : a ≠ page1 sp := by
  have := sp.isLt
  rintro rfl
  rw [← stackAddress_eq_page1, stackAddress_toNat] at h
  omega

/-- A vector that lies in plain memory is what PC is loaded with (R901). -/
theorem loadVector_of_peek {vec : Word} {s : State} {l h : Byte} (hl : s.peek vec = some l)
    (hh : s.peek (vec + 1) = some h) :
    (loadVector vec s).pc = wordOf l h ∧
      (loadVector vec s).accesses = s.accesses ++ [Access.read vec l false, Access.read (vec + 1) h false] := by
  have hlow : busValue vec s = l := busValue_of_peek hl
  have hhigh : busValue (vec + 1) (busRead vec s).2 = h := busValue_of_peek (by rwa [busRead_peek])
  rw [← hlow, ← hhigh]
  exact ⟨rfl, List.append_assoc ..⟩

/-- The interrupt entry through a vector in plain memory above page 1: PC, and every access in order (R904). -/
theorem interruptEntry_of_peek {vec : Word} {s : State} {l h : Byte} (b : Bool) (hl : s.peek vec = some l)
    (hh : s.peek (vec + 1) = some h) (hv : 512 ≤ vec.toNat) (hv' : 512 ≤ (vec + 1).toNat) :
    (interruptEntry vec b s).pc = wordOf l h ∧
      (interruptEntry vec b s).accesses = s.accesses ++
        [Access.write (page1 s.sp) (highByte s.pc) false, Access.write (page1 (s.sp - 1)) (lowByte s.pc) false] ++
        Access.write (page1 (s.sp - 2)) (pImage b s.p) false :: [Access.read vec l false, Access.read (vec + 1) h false] := by
  have hpeek {a : Word} (ha : 512 ≤ a.toNat) : (push (pImage b s.p) (returnPushed s)).peek a = s.peek a :=
    (interruptEntry_sameMemory vec b s a).symm.trans
      (interruptEntry_peek_other (ne_page1_of_le ha _) (ne_page1_of_le ha _) (ne_page1_of_le ha _))
  obtain ⟨hpc, hacc⟩ := loadVector_of_peek
    (s := { push (pImage b s.p) (returnPushed s) with p := { s.p with i := true } })
    ((hpeek hv).trans hl) ((hpeek hv').trans hh)
  rw [interruptEntry_eq]
  refine ⟨hpc, hacc.trans ?_⟩
  rw [← returnPushed_sp]
  simp [returnPushed, stackAddress_eq_page1]

/-! ## PHP and BRK -/

/-- The two pushes of PHP differ in bit 3 of their byte (R754). -/
theorem php_differInPushedD (s : State) (d : Bool) :
    DifferInPushedD s (push (pImage true s.p) s) (push (pImage true { s.p with d := d }) (withDecimal d s))
      (page1 s.sp) d := by
  rw [← stackAddress_eq_page1]
  exact differInPushedD_of_push (earlier := []) (later := []) (stackAddress_eq_page1 s.sp) id rfl
    (by simp) (by simp [withDecimal]) (fun _ => rfl) fun _ => rfl

/-- With D replaced, an interrupt entry leaves every byte as without, but for the image of P (R904). -/
theorem interruptEntry_withDecimal_peek {vec a : Word} {b d : Bool} {s : State} (ha : a ≠ page1 (s.sp - 2)) :
    (interruptEntry vec b (withDecimal d s)).peek a = (interruptEntry vec b s).peek a := by
  rw [← returnPushed_sp] at ha
  calc (interruptEntry vec b (withDecimal d s)).peek a
    _ = (push (pImage b { s.p with d := d }) (returnPushed (withDecimal d s))).peek a := interruptEntry_sameMemory ..
    _ = (returnPushed (withDecimal d s)).peek a := push_peek_of_ne_page1 ha
    _ = (returnPushed s).peek a := rfl
    _ = (push (pImage b s.p) (returnPushed s)).peek a := (push_peek_of_ne_page1 ha).symm
    _ = (interruptEntry vec b s).peek a := (interruptEntry_sameMemory ..).symm

/-- With D replaced, an interrupt entry leaves registers, setting and the other flags as without (R904). -/
theorem interruptEntry_withDecimal_frame (vec : Word) (b d : Bool) (s : State) :
    let t := interruptEntry vec b s
    let u := interruptEntry vec b (withDecimal d s)
    u.a = t.a ∧ u.x = t.x ∧ u.y = t.y ∧ u.sp = t.sp ∧ u.cycles = t.cycles ∧ SameSetting t u ∧
      u.p = { t.p with d := d } := by
  simp [interruptEntry_eq, returnPushed, withDecimal, SameSetting]

/-- Through a vector in plain memory above page 1, two interrupt entries that differ in D differ in bit 3 of the image of P
alone (R904, R112). -/
theorem interruptEntry_differInPushedD {vec : Word} {s : State} {l h : Byte} {b d : Bool} (hl : s.peek vec = some l)
    (hh : s.peek (vec + 1) = some h) (hv : 512 ≤ vec.toNat) (hv' : 512 ≤ (vec + 1).toNat) :
    (interruptEntry vec b (withDecimal d s)).pc = (interruptEntry vec b s).pc ∧
      DifferInPushedD s (interruptEntry vec b s) (interruptEntry vec b (withDecimal d s)) (page1 (s.sp - 2)) d := by
  obtain ⟨hpc, hacc⟩ := interruptEntry_of_peek b hl hh hv hv'
  obtain ⟨hpc', hacc'⟩ := interruptEntry_of_peek (s := withDecimal d s) b hl hh hv hv'
  exact ⟨hpc'.trans hpc.symm,
    differInPushedD_of_push (congrArg page1 (returnPushed_sp s).symm) (fun hm => push_wf (push_wf hm)) rfl hacc hacc'
      (interruptEntry_sameMemory vec b s) (interruptEntry_sameMemory vec b (withDecimal d s))⟩

/-- The state in which BRK enters its interrupt: PC past the padding byte (R802). -/
def breakStart (s : State) : State := { s with pc := s.pc + 1, cycles := Instr.brk.baseCycles }

theorem exec_brk (s : State) : exec .brk s = .next (interruptEntry irqBrkVector true (breakStart s)) := rfl

/-- Where its vector is plain memory, BRK goes on the same but for the pushed D (R802, R904). -/
theorem brk_differInPushedD (s : State) (d : Bool) (hl : s.isPlain 0xFFFE = true) (hh : s.isPlain 0xFFFF = true) :
    (interruptEntry irqBrkVector true (withDecimal d (breakStart s))).pc =
        (interruptEntry irqBrkVector true (breakStart s)).pc ∧
      DifferInPushedD s (interruptEntry irqBrkVector true (breakStart s))
        (interruptEntry irqBrkVector true (withDecimal d (breakStart s))) (page1 (s.sp - 2)) d :=
  interruptEntry_differInPushedD (s := breakStart s) (peek_plain hl) (peek_plain hh) (by decide) (by decide)

/-- Settles O20: by whether the instruction writes D, pushes it, or does neither. -/
theorem decimalFlagIsInert : Obligations.DecimalFlagIsInert := by
  intro i s t d h
  by_cases hi : IsOneOf i [.cld, .sed, .plp, .rti]
  · refine ⟨t, (exec_withDecimal_of_writesDecimal d hi).trans h, rfl, rfl, rfl, rfl, rfl, ⟨rfl, rfl, rfl, rfl, rfl⟩,
      (if_pos hi).symm, fun _ => ⟨rfl, rfl, rfl⟩, ?_, ?_⟩
    · rintro rfl; simp [Instr.op] at hi
    · rintro rfl; simp [Instr.op] at hi
  by_cases hp : IsOneOf i [.php, .brk]
  · obtain hop | hop : i.op = some .php ∨ i.op = some .brk := by simpa [eq_comm] using hp
    · obtain rfl : .php = i := instr_of_op hop
      obtain rfl := runImplied_next h
      exact ⟨_, rfl, rfl, rfl, rfl, rfl, rfl, ⟨rfl, rfl, rfl, rfl, rfl⟩, (if_neg hi).symm, fun hn => absurd hp hn,
        fun _ => ⟨rfl, php_differInPushedD s d⟩, nofun⟩
    · obtain rfl : .brk = i := instr_of_op hop
      obtain rfl := Host.Outcome.next.inj ((exec_brk s).symm.trans h)
      obtain ⟨ha, hx, hy, hsp, hcyc, hset, hflags⟩ := interruptEntry_withDecimal_frame irqBrkVector true d (breakStart s)
      exact ⟨interruptEntry irqBrkVector true (withDecimal d (breakStart s)), exec_brk (withDecimal d s),
        ha, hx, hy, hsp, hcyc, hset, hflags.trans (if_neg hi).symm,
        fun hn => absurd hp hn, nofun, fun _ => ⟨fun _ ha => interruptEntry_withDecimal_peek ha, brk_differInPushedD s d⟩⟩
  · refine ⟨withDecimal d t, exec_withDecimal d h hi hp, rfl, rfl, rfl, rfl, rfl, ⟨rfl, rfl, rfl, rfl, rfl⟩,
      (if_neg hi).symm, fun _ => ⟨rfl, rfl, rfl⟩, ?_, ?_⟩
    · rintro rfl; simp [Instr.op] at hp
    · rintro rfl; simp [Instr.op] at hp

end Sys2Proof.Proofs
end

section
/-! # Proofs about shift, rotate, increment and decrement on A or on memory

The six operations share the read-modify-write template (R500). `modifiesByte_of_runModify` says once what it does on A and on
a byte of memory; what is left of an operation is its function on a byte and its flags, in numbers. A rotate is the shift with
the old C put into the bit that the shift has cleared, which is the same as adding it (`or_flagAt_eq_add`). -/

namespace Sys2Proof.Proofs

open Sys2Proof.Machine Sys2Proof.Claims Sys2Proof.Laws

/-! ## The read-modify-write template -/

/-- A state whose memory is that after one bus write has stored that byte and no other. -/
theorem bytesStored_of_busWrite {s t : State} {ea : Word} {v : Byte} (hm : t.mem = (busWrite ea v s).mem)
    (hp : t.plain = s.plain) : BytesStored s t [(ea, v)] := by
  have hpeek (a : Word) : t.peek a = (busWrite ea v s).peek a := peek_congr hm hp
  refine ⟨fun a ha => ?_, fun hwf e he hplain => ?_⟩
  · rw [hpeek, busWrite_peek_other (by simpa using ha)]
  · obtain rfl := List.mem_singleton.1 he
    rw [hpeek, busWrite_peek_same hwf hplain]

/-- Only read-class instructions pay for a page crossing (R420). -/
theorem pagePenalty_of_not_readClass {i : Instr} (c : Bool) (h : isReadClass i = false) : pagePenalty i c = 0 := by
  simp [pagePenalty, h]

section

variable {i : Instr} {o : Operand} {s : State} (hw : i.wellFormed = true)
include hw

theorem runModify_accumulator (f : Byte → Status → Byte × Status) : runModify i .accumulator f s =
    .next { s with a := (f s.a s.p).1, p := (f s.a s.p).2, cycles := i.baseCycles } := by
  rw [runModify, prepare_wellFormed hw]
  rfl

/-- On memory: one read and one write behind the accesses `acc` of the resolver (R500). -/
theorem runModify_memory {ea : Word} {acc : List Access} (f : Byte → Status → Byte × Status)
    (hr : isReadClass i = false) (hopd : (resolve o s).opd = .mem ea)
    (hstate : (resolve o s).state = { s with accesses := acc }) :
    let u : State := { s with accesses := acc, cycles := i.baseCycles }
    let r := f (busValue ea u) s.p
    runModify i o f s = .next { busWrite ea r.1 (busRead ea u).2 with p := r.2 } := by
  rw [runModify, prepare_wellFormed hw, hopd, hstate, pagePenalty_of_not_readClass _ hr]
  rfl

/-- An instruction of the template modifies its byte, by a function that may be given in terms of the state before it. -/
theorem modifiesByte_of_runModify {f : Byte → Status → Byte × Status} {g : Byte → Byte × Status}
    (hr : isReadClass i = false) (ho : i.operand.mode ∈ Mode.accumulator :: memoryModes)
    (hexec : exec i s = runModify i i.operand f s) (hf : ∀ v, f v s.p = g v) : ModifiesByte i s g := by
  obtain hacc | hmem := List.mem_cons.1 ho
  · have hacc : i.operand = .accumulator := by
      cases ho : i.operand with
      | accumulator => rfl
      | _ => rw [ho] at hacc; cases hacc
    refine .inl ⟨hacc, ?_⟩
    rw [hexec, hacc, runModify_accumulator hw, hf]
  · obtain ⟨ea, hea⟩ := resolve_memoryModes hmem s
    have hstate := resolve_state i.operand s
    generalize (resolve i.operand s).state.accesses = acc at hstate
    refine .inr ⟨ea, _, by rw [hea]; rfl, hexec.trans (runModify_memory hw f hr hea hstate), ?_⟩
    rw [hf, hstate]
    exact ⟨List.append_assoc .., bytesStored_of_busWrite rfl rfl, rfl, rfl, rfl, rfl, rfl, rfl,
      ⟨rfl, rfl, rfl, rfl, rfl⟩, rfl⟩

end

/-! ## The functions on a byte, as numbers -/

theorem getLsbD_zero (b : Byte) : b.getLsbD 0 = decide (b.toNat % 2 = 1) := Nat.testBit_zero _

theorem shiftLeft_one_eq_byte (v : Byte) : v <<< 1 = byte (2 * v.toNat) := by
  apply BitVec.eq_of_toNat_eq
  rw [BitVec.toNat_shiftLeft, Nat.shiftLeft_eq, mul_comm]
  exact (BitVec.toNat_ofNat ..).symm

theorem ushiftRight_one_eq_byte (v : Byte) : v >>> 1 = byte (v.toNat / 2) := by
  have := v.isLt
  apply BitVec.eq_of_toNat_eq
  rw [BitVec.toNat_ushiftRight, Nat.shiftRight_eq_div_pow, byte, BitVec.toNat_ofNat]
  omega

/-- A flag put into a clear bit is added to the byte. -/
theorem or_flagAt_eq_add {v : Byte} {k : Nat} (c : Bool) (h : v.getLsbD k = false) :
    v ||| flagAt c k = v + byte (2 ^ k * bit c) := by
  cases c with
  | false => simp [flagAt, bit, byte]
  | true =>
    have hpow : flagAt true k = byte (2 ^ k * bit true) := by
      apply BitVec.eq_of_toNat_eq
      simp [flagAt, bit, byte, Nat.shiftLeft_eq]
    have hdisjoint : v &&& BitVec.twoPow 8 k = 0#8 := by
      rw [BitVec.and_twoPow, h]
      rfl
    rw [← hpow]
    exact (BitVec.add_eq_or_of_and_eq_zero v _ hdisjoint).symm

theorem shiftLeft_eq (v : Byte) (p : Status) :
    shiftLeft v p = (byte (2 * v.toNat), { nz (byte (2 * v.toNat)) p with c := decide (128 ≤ v.toNat) }) := by
  rw [shiftLeft, shiftLeft_one_eq_byte, setNZ_eq_nz, getLsbD_seven]
  rfl

theorem shiftRight_eq (v : Byte) (p : Status) :
    shiftRight v p = (byte (v.toNat / 2), { nz (byte (v.toNat / 2)) p with c := decide (v.toNat % 2 = 1) }) := by
  rw [shiftRight, ushiftRight_one_eq_byte, setNZ_eq_nz, getLsbD_zero]
  rfl

theorem rotateLeft_eq (v : Byte) (p : Status) :
    rotateLeft v p = (byte (2 * v.toNat + bit p.c),
      { nz (byte (2 * v.toNat + bit p.c)) p with c := decide (128 ≤ v.toNat) }) := by
  have hres : (v <<< 1) ||| flagAt p.c 0 = byte (2 * v.toNat + bit p.c) := by
    rw [or_flagAt_eq_add p.c (by simp), shiftLeft_one_eq_byte, pow_zero, one_mul]
    exact (BitVec.ofNat_add ..).symm
  rw [rotateLeft, hres, setNZ_eq_nz, getLsbD_seven]
  rfl

theorem rotateRight_eq (v : Byte) (p : Status) :
    rotateRight v p = (byte (v.toNat / 2 + 128 * bit p.c),
      { nz (byte (v.toNat / 2 + 128 * bit p.c)) p with c := decide (v.toNat % 2 = 1) }) := by
  have hres : (v >>> 1) ||| flagAt p.c 7 = byte (v.toNat / 2 + 128 * bit p.c) := by
    rw [or_flagAt_eq_add p.c (by simp), ushiftRight_one_eq_byte]
    exact (BitVec.ofNat_add ..).symm
  rw [rotateRight, hres, setNZ_eq_nz, getLsbD_zero]
  rfl

theorem increment_eq (v : Byte) (p : Status) :
    increment v p = (byte (v.toNat + 1), nz (byte (v.toNat + 1)) p) := by
  have hres : v + 1 = byte (v.toNat + 1) := rfl
  rw [increment, hres, setNZ_eq_nz]

theorem decrement_eq (v : Byte) (p : Status) :
    decrement v p = (byte (v.toNat + 255), nz (byte (v.toNat + 255)) p) := by
  have hres : v - 1 = byte (v.toNat + 255) := by
    rw [add_comm]
    rfl
  rw [decrement, hres, setNZ_eq_nz]

/-! ## The operations -/

/-- Settles O21: the four operations differ in their function on a byte alone. -/
theorem shiftsAndRotates : Obligations.ShiftsAndRotates := by
  refine ⟨?_, ?_, ?_, ?_, fun o s => ?_⟩
  · exact encodes_of_rows (fun _ => rfl) (fun _ => rfl) (fun _ => rfl) (by decide +kernel)
  · exact encodes_of_rows (fun _ => rfl) (fun _ => rfl) (fun _ => rfl) (by decide +kernel)
  · exact encodes_of_rows (fun _ => rfl) (fun _ => rfl) (fun _ => rfl) (by decide +kernel)
  · exact encodes_of_rows (fun _ => rfl) (fun _ => rfl) (fun _ => rfl) (by decide +kernel)
  · have hmodes (h : shiftModes.contains o.mode = true) : o.mode ∈ Mode.accumulator :: memoryModes :=
      mem_of_contains h (by decide)
    exact
      ⟨fun hw => modifiesByte_of_runModify hw rfl (hmodes hw) rfl fun v => shiftLeft_eq v s.p,
       fun hw => modifiesByte_of_runModify hw rfl (hmodes hw) rfl fun v => shiftRight_eq v s.p,
       fun hw => modifiesByte_of_runModify hw rfl (hmodes hw) rfl fun v => rotateLeft_eq v s.p,
       fun hw => modifiesByte_of_runModify hw rfl (hmodes hw) rfl fun v => rotateRight_eq v s.p⟩

/-- Settles O22: as the shifts, without a form on A. -/
theorem incAndDecMemory : Obligations.IncAndDecMemory := by
  refine ⟨?_, ?_, fun o s => ?_⟩
  · exact encodes_of_rows (fun _ => rfl) (fun _ => rfl) (fun _ => rfl) (by decide +kernel)
  · exact encodes_of_rows (fun _ => rfl) (fun _ => rfl) (fun _ => rfl) (by decide +kernel)
  · have hmodes (h : incDecModes.contains o.mode = true) : o.mode ∈ Mode.accumulator :: memoryModes :=
      mem_of_contains h (by decide)
    exact
      ⟨fun hw => modifiesByte_of_runModify hw rfl (hmodes hw) rfl fun v => increment_eq v s.p,
       fun hw => modifiesByte_of_runModify hw rfl (hmodes hw) rfl fun v => decrement_eq v s.p⟩

end Sys2Proof.Proofs
end

section
/-! # Proofs about the register instructions of Implied mode

`registerOp_of_runImplied` says once what such an instruction is: its row in the opcode table, and its effect on the state whose
cycle count is already the row's. What is left of an instruction is its effect, in numbers. -/

namespace Sys2Proof.Proofs

open Sys2Proof.Machine Sys2Proof.Claims Sys2Proof.Laws

/-- The row of an operation whose one mode is Implied gives its encoding and its cycles (R305). -/
theorem encodesImplied_of_row {i : Instr} {op : Op} {opcode : Byte} {cycles : Nat} (hw : i.wellFormed = true)
    (hop : i.op = some op) (ho : i.operand = .implied)
    (hrow : rowOf op .implied = some ⟨opcode, op, .implied, cycles⟩) : EncodesImplied i opcode cycles := by
  have hrow' : rowOf op i.operand.mode = some ⟨opcode, op, .implied, cycles⟩ := by rw [ho]; exact hrow
  refine ⟨hw, ?_, ?_⟩
  · rw [encode_of_row hop hrow', ho]
    rfl
  · simp only [Instr.baseCycles, Instr.row, hop, hrow']

/-- An instruction that runs on the state with its cycles counted has the effect of that run, which may be given in terms of
the state before it. -/
theorem registerOp_of_runImplied {i : Instr} {opcode : Byte} {f effect : State → State}
    (henc : EncodesImplied i opcode 2) (hexec : ∀ s, exec i s = runImplied i f s)
    (heff : ∀ s, f { s with cycles := 2 } = { effect s with cycles := 2 }) : RegisterOp i opcode effect := by
  refine ⟨henc, fun s => ?_⟩
  obtain ⟨-, -, hcycles⟩ := henc
  rw [hexec, runImplied, hcycles, heff]

/-! ## Increment and decrement of X and Y -/

/-- Settles O23: the four instructions differ in the register and in the function on a byte, which they share with INC and
DEC. -/
theorem incrementAndDecrementRegisters : Obligations.IncrementAndDecrementRegisters := by
  refine ⟨?inx, ?iny, ?dex, ?dey⟩
  case inx =>
    exact registerOp_of_runImplied (f := fun t => setX (increment t.x t.p) t) (encodesImplied_of_row rfl rfl rfl rfl)
      (fun _ => rfl) fun s => congrArg (setX · { s with cycles := 2 }) (increment_eq s.x s.p)
  case iny =>
    exact registerOp_of_runImplied (f := fun t => setY (increment t.y t.p) t) (encodesImplied_of_row rfl rfl rfl rfl)
      (fun _ => rfl) fun s => congrArg (setY · { s with cycles := 2 }) (increment_eq s.y s.p)
  case dex =>
    exact registerOp_of_runImplied (f := fun t => setX (decrement t.x t.p) t) (encodesImplied_of_row rfl rfl rfl rfl)
      (fun _ => rfl) fun s => congrArg (setX · { s with cycles := 2 }) (decrement_eq s.x s.p)
  case dey =>
    exact registerOp_of_runImplied (f := fun t => setY (decrement t.y t.p) t) (encodesImplied_of_row rfl rfl rfl rfl)
      (fun _ => rfl) fun s => congrArg (setY · { s with cycles := 2 }) (decrement_eq s.y s.p)

end Sys2Proof.Proofs
end

section
/-! # Proofs about load and store

The loads are read-class instructions (`runsOnOperand_of_runRead`) whose effect is a register with its N and Z. The stores
share one shape, which `storesByte_of_runStore` describes once: behind the accesses of the resolver it makes a single bus write
at the address resolved. -/

namespace Sys2Proof.Proofs

open Sys2Proof.Machine Sys2Proof.Claims Sys2Proof.Laws

/-! ## Loads -/

/-- Settles O24: the three operations differ in the register they set alone; `setNZ_eq_nz` gives the flags as numbers. -/
theorem loadsSetRegisterAndFlags : Obligations.LoadsSetRegisterAndFlags := by
  refine ⟨?_, ?_, ?_, fun o s => ⟨fun hw => ?lda, fun hw => ?ldx, fun hw => ?ldy⟩⟩
  · exact encodes_of_rows (fun _ => rfl) (fun _ => rfl) (fun _ => rfl) (by decide +kernel)
  · exact encodes_of_rows (fun _ => rfl) (fun _ => rfl) (fun _ => rfl) (by decide +kernel)
  · exact encodes_of_rows (fun _ => rfl) (fun _ => rfl) (fun _ => rfl) (by decide +kernel)
  case lda =>
    exact runsOnOperand_of_runRead (f := fun m u => setA (m, setNZ m u.p) u) rfl hw rfl
      fun m _ _ => congrArg (fun p => setA (m, p) _) (setNZ_eq_nz m s.p)
  case ldx =>
    exact runsOnOperand_of_runRead (f := fun m u => setX (m, setNZ m u.p) u) rfl hw rfl
      fun m _ _ => congrArg (fun p => setX (m, p) _) (setNZ_eq_nz m s.p)
  case ldy =>
    exact runsOnOperand_of_runRead (f := fun m u => setY (m, setNZ m u.p) u) rfl hw rfl
      fun m _ _ => congrArg (fun p => setY (m, p) _) (setNZ_eq_nz m s.p)

/-! ## Stores -/

/-- A store into memory is one bus write behind the accesses of the resolver, at the base count of cycles (R420, R603). -/
theorem runStore_memory {i : Instr} {o : Operand} {s : State} {ea : Word} (v : Byte) (hw : i.wellFormed = true)
    (hr : isReadClass i = false) (hopd : (resolve o s).opd = .mem ea) :
    runStore i o v s = .next (busWrite ea v { (resolve o s).state with cycles := i.baseCycles }) := by
  rw [runStore, prepare_wellFormed hw, hopd, pagePenalty_of_not_readClass _ hr]
  rfl

/-- An instruction of this shape stores its byte and does nothing else. -/
theorem storesByte_of_runStore {i : Instr} {s : State} {v : Byte} (hw : i.wellFormed = true)
    (hr : isReadClass i = false) (ho : i.operand.mode ∈ memoryModes) (hexec : exec i s = runStore i i.operand v s) :
    StoresByte i s v := by
  obtain ⟨ea, hea⟩ := resolve_memoryModes ho s
  have hrun := hexec.trans (runStore_memory v hw hr hea)
  refine ⟨ea, _, by rw [hea]; rfl, hrun, rfl, ?_⟩
  rw [resolve_state i.operand s]
  exact ⟨bytesStored_of_busWrite rfl rfl, ⟨rfl, rfl, rfl, rfl, rfl⟩, rfl, ⟨rfl, rfl, rfl, rfl, rfl⟩, rfl⟩

/-- Settles O25: the three operations differ in the register they store alone, and their modes are memory modes. -/
theorem storesWriteOneByte : Obligations.StoresWriteOneByte := by
  refine ⟨?_, ?_, ?_, fun o s => ⟨fun hw => ?sta, fun hw => ?stx, fun hw => ?sty⟩⟩
  · exact encodes_of_rows (fun _ => rfl) (fun _ => rfl) (fun _ => rfl) (by decide +kernel)
  · exact encodes_of_rows (fun _ => rfl) (fun _ => rfl) (fun _ => rfl) (by decide +kernel)
  · exact encodes_of_rows (fun _ => rfl) (fun _ => rfl) (fun _ => rfl) (by decide +kernel)
  case sta => exact storesByte_of_runStore hw rfl (mem_of_contains hw (by decide)) rfl
  case stx => exact storesByte_of_runStore hw rfl (mem_of_contains hw (by decide)) rfl
  case sty => exact storesByte_of_runStore hw rfl (mem_of_contains hw (by decide)) rfl

end Sys2Proof.Proofs
end

section
/-! # Proofs about flag set and clear, and compare

The flag instructions run the model's `onFlags` on a change of one flag (`registerOp_of_onFlags`). The compares are read-class
instructions (`runsOnOperand_of_runRead`) that do the same with the flags of a comparison, which `compareFlags_eq` gives in
numbers. What SEI and CLI leave in I is what the dispatch of an IRQ asks for (R903). -/

namespace Sys2Proof.Proofs

open Sys2Proof.Machine Sys2Proof.Claims Sys2Proof.Laws

/-! ## Compare -/

/-- The flags of a comparison in numbers; N is bit 7 of the difference modulo 256 (R657). -/
theorem compareFlags_eq (reg m : Byte) (p : Status) :
    compareFlags reg m p = { p with
      c := decide (m.toNat ≤ reg.toNat)
      z := decide (reg.toNat = m.toNat)
      n := decide (128 ≤ (reg.toNat + 256 - m.toNat) % 256) } := by
  have hz : (reg == m) = decide (reg.toNat = m.toNat) := by
    rw [Bool.eq_iff_iff]
    simp [← BitVec.toNat_inj]
  have hdiff : (reg - m).toNat = (reg.toNat + 256 - m.toNat) % 256 := by
    have := m.isLt
    rw [BitVec.toNat_sub]
    omega
  rw [compareFlags, hz, getLsbD_seven, hdiff]

/-- Settles O27: the three operations differ in the register they compare alone. -/
theorem comparesSetCarryZeroNegative : Obligations.ComparesSetCarryZeroNegative := by
  refine ⟨?_, ?_, ?_, fun o s => ⟨fun hw => ?cmp, fun hw => ?cpx, fun hw => ?cpy⟩⟩
  · exact encodes_of_rows (fun _ => rfl) (fun _ => rfl) (fun _ => rfl) (by decide +kernel)
  · exact encodes_of_rows (fun _ => rfl) (fun _ => rfl) (fun _ => rfl) (by decide +kernel)
  · exact encodes_of_rows (fun _ => rfl) (fun _ => rfl) (fun _ => rfl) (by decide +kernel)
  case cmp =>
    exact runsOnOperand_of_runRead (f := fun m u => onFlags (compareFlags u.a m) u) rfl hw rfl
      fun m _ _ => congrArg (fun p => onFlags (fun _ => p) _) (compareFlags_eq s.a m s.p)
  case cpx =>
    exact runsOnOperand_of_runRead (f := fun m u => onFlags (compareFlags u.x m) u) rfl hw rfl
      fun m _ _ => congrArg (fun p => onFlags (fun _ => p) _) (compareFlags_eq s.x m s.p)
  case cpy =>
    exact runsOnOperand_of_runRead (f := fun m u => onFlags (compareFlags u.y m) u) rfl hw rfl
      fun m _ _ => congrArg (fun p => onFlags (fun _ => p) _) (compareFlags_eq s.y m s.p)

/-! ## Flag set and clear -/

/-- An instruction of Implied mode that runs a change of the flags has that change as its whole effect. -/
theorem registerOp_of_onFlags {i : Instr} {opcode : Byte} {f : Status → Status} (henc : EncodesImplied i opcode 2)
    (hexec : ∀ s, exec i s = runImplied i (onFlags f) s) : RegisterOp i opcode (onFlags f) :=
  registerOp_of_runImplied henc hexec fun _ => rfl

/-- Settles O26: each instruction has its row of the opcode table, and is a change of one flag. -/
theorem flagInstructionsWriteOneFlag : Obligations.FlagInstructionsWriteOneFlag :=
  ⟨registerOp_of_onFlags (f := fun p => { p with c := false }) (encodesImplied_of_row rfl rfl rfl rfl) fun _ => rfl,
   registerOp_of_onFlags (f := fun p => { p with c := true }) (encodesImplied_of_row rfl rfl rfl rfl) fun _ => rfl,
   registerOp_of_onFlags (f := fun p => { p with i := false }) (encodesImplied_of_row rfl rfl rfl rfl) fun _ => rfl,
   registerOp_of_onFlags (f := fun p => { p with i := true }) (encodesImplied_of_row rfl rfl rfl rfl) fun _ => rfl,
   registerOp_of_onFlags (f := fun p => { p with d := false }) (encodesImplied_of_row rfl rfl rfl rfl) fun _ => rfl,
   registerOp_of_onFlags (f := fun p => { p with d := true }) (encodesImplied_of_row rfl rfl rfl rfl) fun _ => rfl,
   registerOp_of_onFlags (f := fun p => { p with v := false }) (encodesImplied_of_row rfl rfl rfl rfl) fun _ => rfl⟩

/-! ## The next IRQ -/

/-- An IRQ is suppressed while I is set (R903). -/
theorem dispatchInterrupt_irq_of_disabled {s : State} (hreset : s.resetDone = true) (hi : s.p.i = true) :
    dispatchInterrupt .irq s = .next { s with cycles := 0 } := by
  rw [dispatchInterrupt, dispatchIrq, if_pos hreset, if_pos hi]

/-- An IRQ is taken while I is clear (R903). -/
theorem dispatchInterrupt_irq_of_enabled {s : State} (hreset : s.resetDone = true) (hi : s.p.i = false) :
    dispatchInterrupt .irq s = .next { interruptEntry irqBrkVector false s with cycles := dispatchCycles } := by
  rw [dispatchInterrupt, dispatchIrq, if_pos hreset, if_neg (Bool.eq_false_iff.1 hi)]

/-- An interrupt entry pushes three bytes (R904). -/
theorem interruptEntry_sp (vec : Word) (b : Bool) (s : State) : (interruptEntry vec b s).sp = s.sp - 3 := by
  rw [interruptEntry_eq, loadVector_sp, push_sp, returnPushed_sp]
  exact sub_sub ..

/-- Settles O50: SEI and CLI leave I as the dispatch finds it, and `reset_done` and S as they were. -/
theorem seiAndCliGovernTheNextIrq : Obligations.SeiAndCliGovernTheNextIrq := by
  refine fun s t hreset => ⟨fun hsei => ?_, fun hcli => ?_⟩
  · obtain rfl := runImplied_next hsei
    exact dispatchInterrupt_irq_of_disabled hreset rfl
  · obtain rfl := runImplied_next hcli
    exact ⟨_, dispatchInterrupt_irq_of_enabled hreset rfl, rfl, interruptEntry_sp irqBrkVector false _⟩

end Sys2Proof.Proofs
end

section
/-! # Proofs about jump, call, return and branch

A jump runs its effect at the address the resolver gives (`exec_of_runJump`), a branch runs on its displacement
(`branches_of_runBranch`). A call pushes and a return pops: what a row of pushes stores is built up one push at a time
(`bytesStored_push`), and a pop is a bus read at the address behind S (`pop_eq`). That a return undoes its call is then the
statement on the return, read with what the statement on the call says is on the stack. -/

namespace Sys2Proof.Proofs

open Sys2Proof.Machine Sys2Proof.Claims Sys2Proof.Laws

/-! ## The bytes of a word, as numbers -/

theorem highByte_eq_hi (w : Word) : highByte w = hi w := by
  rw [hi, byte, ← highByte_toNat, BitVec.ofNat_toNat, BitVec.setWidth_eq]

theorem lowByte_eq_lo (w : Word) : lowByte w = lo w := by
  rw [lo, byte, ← lowByte_toNat, BitVec.ofNat_toNat, BitVec.setWidth_eq]

theorem word_lo_hi (w : Word) : word (lo w) (hi w) = w := by
  rw [← wordOf_eq_word, ← lowByte_eq_lo, ← highByte_eq_hi, wordOf_bytes]

/-! ## Jump -/

/-- A jump to an address in memory runs its effect there, at the base count of cycles (R420, R700). -/
theorem exec_of_runJump {i : Instr} {s : State} {f : Word → State → State} {ea : Word} (hw : i.wellFormed = true)
    (hr : isReadClass i = false) (hexec : exec i s = runJump i i.operand f s)
    (hopd : (resolve i.operand s).opd = .mem ea) :
    exec i s = .next (f ea { (resolve i.operand s).state with cycles := i.baseCycles }) := by
  rw [hexec, runJump, prepare_wellFormed hw, hopd, pagePenalty_of_not_readClass _ hr]
  rfl

/-- JMP writes PC alone behind the accesses of the resolver (R700). -/
theorem exec_jmp {o : Operand} {s : State} {ea : Word} (hw : (Instr.jmp o).wellFormed = true)
    (hopd : (resolve o s).opd = .mem ea) :
    exec (.jmp o) s = .next { (resolve o s).state with pc := ea, cycles := (Instr.jmp o).baseCycles } :=
  exec_of_runJump (f := fun ea t => { t with pc := ea }) hw rfl rfl hopd

/-- Settles O28: the operand Absolute is the target, the operand Indirect the resolver's word behind the pointer (O16). -/
theorem jmpGoesToItsAddress : Obligations.JmpGoesToItsAddress := by
  refine ⟨?_, fun w s => ⟨?absolute, ?indirect⟩⟩
  · exact encodes_of_rows (fun _ => rfl) (fun _ => rfl) (fun _ => rfl) (by decide +kernel)
  case absolute => exact exec_jmp rfl rfl
  case indirect =>
    obtain ⟨⟨hopd, -, hframe, hacc⟩, -, -⟩ := resolvePointerModes s 0 w
    refine ⟨_, exec_jmp rfl hopd, ?_, rfl, hacc⟩
    rw [hframe]
    rfl

/-! ## Call -/

theorem page1_injective : Function.Injective page1 := by
  intro a b h
  rw [← stackAddress_eq_page1, ← stackAddress_eq_page1] at h
  have h := congrArg BitVec.toNat h
  rw [stackAddress_toNat, stackAddress_toNat] at h
  exact BitVec.eq_of_toNat_eq (Nat.add_left_cancel h)

theorem bytesStored_nil (s : State) : BytesStored s s [] := ⟨fun _ _ => rfl, nofun⟩

/-- One more push stores one more byte, as long as S does not come back to an address that holds one of the others (R750). -/
theorem bytesStored_push {s t : State} {l : List (Word × Byte)} (h : BytesStored s t l) (v : Byte)
    (hwf : Memory.wf s.mem = true → Memory.wf t.mem = true) (hplain : t.plain = s.plain)
    (hnew : page1 t.sp ∉ l.map (·.1)) : BytesStored s (push v t) (l ++ [(page1 t.sp, v)]) := by
  obtain ⟨hother, hstored⟩ := h
  refine ⟨fun a ha => ?_, fun hm e he hp => ?_⟩
  · rw [List.map_append, List.mem_append, not_or] at ha
    rw [push_peek_of_ne_page1 (by simpa using ha.2), hother a ha.1]
  · obtain he | he := List.mem_append.1 he
    · have hne : e.1 ≠ page1 t.sp := by
        intro heq
        exact hnew (heq ▸ List.mem_map_of_mem he)
      rw [push_peek_of_ne_page1 hne]
      exact hstored hm e he hp
    · obtain rfl := List.mem_singleton.1 he
      rw [← isPlain_congr hplain, ← stackAddress_eq_page1] at hp
      rw [← stackAddress_eq_page1]
      exact push_peek_same (hwf hm) hp

/-- The two bytes of a call (R701). -/
theorem callSubroutine_bytesStored (ea : Word) (s : State) :
    BytesStored s (callSubroutine ea s)
      [(page1 s.sp, hi (s.pc - 1)), (page1 (s.sp - 1), lo (s.pc - 1))] := by
  rw [← highByte_eq_hi, ← lowByte_eq_lo]
  have hne : s.sp - 1 ≠ s.sp := by bv_omega
  have hnew : page1 (s.sp - 1) ∉ [page1 s.sp] := by
    simpa using page1_injective.ne hne
  have hhigh := bytesStored_push (bytesStored_nil s) (highByte (s.pc - 1)) id rfl (by simp)
  exact bytesStored_push hhigh (lowByte (s.pc - 1)) push_wf rfl hnew

/-- Settles O29: the operand is the target itself, and the call is two pushes. -/
theorem jsrPushesReturnAddress : Obligations.JsrPushesReturnAddress := by
  refine ⟨?_, fun w s => ?_⟩
  · exact encodes_of_rows (fun _ => rfl) (fun _ => rfl) (fun _ => rfl) (by decide +kernel)
  · have hrun : exec (.jsr (.absolute w)) s = .next (callSubroutine w { s with cycles := 6 }) :=
      exec_of_runJump (i := .jsr (.absolute w)) rfl rfl rfl rfl
    refine ⟨_, hrun, rfl, sub_sub .., rfl, rfl, rfl, rfl, ⟨rfl, rfl, rfl, rfl, rfl⟩, rfl, ?_,
      callSubroutine_bytesStored w { s with cycles := 6 }⟩
    simp [callSubroutine, stackAddress_eq_page1, highByte_eq_hi, lowByte_eq_lo]

/-! ## Return -/

/-- A pop is a bus read behind S in page 1, and S one higher (R751, R752). -/
theorem pop_eq (s : State) :
    pop s = (busValue (page1 (s.sp + 1)) s, { (busRead (page1 (s.sp + 1)) s).2 with sp := s.sp + 1 }) := by
  rw [← stackAddress_eq_page1]
  rfl

/-- Settles O30: the return is two pops. -/
theorem rtsReturnsBehindThePoppedAddress : Obligations.RtsReturnsBehindThePoppedAddress := by
  refine ⟨encodesImplied_of_row rfl rfl rfl rfl, fun s => ?_⟩
  have hrun : exec .rts s = .next (returnSubroutine { s with cycles := 6 }) := rfl
  have hsp : s.sp + 1 + 1 = s.sp + 2 := add_assoc ..
  refine ⟨_, hrun, ?_⟩
  simp only [returnSubroutine, pop_eq, hsp, wordOf_eq_word]
  exact ⟨rfl, rfl, List.append_assoc ..⟩

/-- Settles O31: the return is three pops, and the flags are the bits of the first byte. -/
theorem rtiRestoresFlagsAndPc : Obligations.RtiRestoresFlagsAndPc := by
  refine ⟨encodesImplied_of_row rfl rfl rfl rfl, fun s => ?_⟩
  have hrun : exec .rti s = .next (interruptReturn { s with cycles := 6 }) := rfl
  have hsp : s.sp + 1 + 1 = s.sp + 2 := add_assoc ..
  have hsp' : s.sp + 2 + 1 = s.sp + 3 := add_assoc ..
  refine ⟨_, hrun, ?_⟩
  simp only [interruptReturn, pop_eq, hsp, hsp', wordOf_eq_word]
  exact ⟨rfl, rfl, (List.append_assoc ..).trans (List.append_assoc ..)⟩

/-- Settles O49: the bytes that RTS pops (O30) are those that JSR stored (O29), in the opposite order. -/
theorem rtsUndoesJsr : Obligations.RtsUndoesJsr := by
  intro w s called t hm hplain hjsr hsp hkept
  obtain ⟨-, hcall⟩ := jsrPushesReturnAddress
  obtain ⟨called', hjsr', -, hcalledSp, -, -, -, -, -, -, -, -, hstored⟩ := hcall w s
  obtain rfl := Host.Outcome.next.inj (hjsr.symm.trans hjsr')
  have hhigh : t.peek (page1 s.sp) = some (hi (s.pc - 1)) := by
    have hp : s.isPlain (page1 s.sp) = true := by simpa using hplain 0 (by decide)
    have hk : t.peek (page1 s.sp) = called.peek (page1 s.sp) := by simpa using hkept 0 (by decide)
    rw [hk]
    exact hstored hm (page1 s.sp, _) (List.mem_cons_self ..) hp
  have hlow : t.peek (page1 (s.sp - 1)) = some (lo (s.pc - 1)) :=
    (hkept 1 (by decide)).trans (hstored hm (page1 (s.sp - 1), _) (.tail _ (.head _)) (hplain 1 (by decide)))
  have hsp1 : t.sp + 1 = s.sp - 1 := by
    rw [hsp, hcalledSp]
    bv_omega
  have hsp2 : t.sp + 2 = s.sp := by
    rw [hsp, hcalledSp]
    exact sub_add_cancel ..
  obtain ⟨-, hreturn⟩ := rtsReturnsBehindThePoppedAddress
  obtain ⟨r, hrts, hr, -, -⟩ := hreturn t
  rw [hsp1, hsp2, busValue_of_peek hlow, busValue_of_peek (by rwa [busRead_peek]), word_lo_hi, sub_add_cancel] at hr
  exact ⟨r, hrts, by rw [hr], by rw [hr]⟩

/-! ## Branch -/

/-- The target of a branch is the signed sum, modulo 65536 (R411). -/
theorem branchTarget_toNat (pc : Word) (d : Byte) :
    ((branchTarget pc d).toNat : Int) = (pc.toNat + d.toInt) % 65536 := by
  rw [branchTarget, BitVec.signExtend, BitVec.toNat_add, BitVec.toNat_ofInt]
  omega

theorem runBranch_relative {i : Instr} (c : Bool) (d : Byte) (s : State) (hw : i.wellFormed = true) :
    runBranch i (.relative d) c s = .next (takeBranch c d { s with cycles := i.baseCycles }) := by
  rw [runBranch, prepare_wellFormed hw]
  rfl

/-- A taken branch costs one cycle, and one more for a target on another page (R704). -/
theorem takeBranch_true (d : Byte) (s : State) :
    takeBranch true d s = { s with
      pc := branchTarget s.pc d
      cycles := if (branchTarget s.pc d).toNat / 256 = s.pc.toNat / 256 then s.cycles + 1 else s.cycles + 2 } := by
  have hcycles : s.cycles + 1 + (if pageCrossed (branchTarget s.pc d) s.pc then 1 else 0) =
      if (branchTarget s.pc d).toNat / 256 = s.pc.toNat / 256 then s.cycles + 1 else s.cycles + 2 := by
    rw [pageCrossed_eq]
    by_cases h : (branchTarget s.pc d).toNat / 256 = s.pc.toNat / 256
    · simp [h]
    · simp [h]
  rw [← hcycles]
  rfl

/-- An instruction of this shape branches on its condition. -/
theorem branches_of_runBranch {mk : Operand → Instr} {opcode : Byte} {cond : Status → Prop}
    (henc : Encodes mk [(.relative, opcode, 2)])
    (hcond : ∀ d s, branchTaken (mk (.relative d)) s = true ↔ cond s.p)
    (hexec : ∀ d s, exec (mk (.relative d)) s =
      runBranch (mk (.relative d)) (.relative d) (branchTaken (mk (.relative d)) s) s) :
    Branches mk opcode cond := by
  refine ⟨henc, fun d s => ?_⟩
  obtain ⟨hmodes, hrow⟩ := henc (.relative d)
  obtain ⟨-, hcycles⟩ := hrow _ (List.mem_singleton_self _) rfl
  have hrun := (hexec d s).trans (runBranch_relative _ d s (hmodes.2 (List.mem_singleton_self _)))
  rw [hcycles] at hrun
  refine ⟨fun htaken => ⟨branchTarget s.pc d, branchTarget_toNat s.pc d, ?_⟩, fun hnot => ?_⟩
  · rw [hrun, (hcond d s).2 htaken, takeBranch_true]
  · rw [hrun, Bool.eq_false_iff.2 (mt (hcond d s).1 hnot)]
    rfl

/-- Settles O32: the eight branches differ in their row and their condition alone. -/
theorem branchesOnOneFlag : Obligations.BranchesOnOneFlag := by
  refine ⟨?bcc, ?bcs, ?beq, ?bmi, ?bne, ?bpl, ?bvc, ?bvs⟩
  case bcc | bne | bpl | bvc =>
    exact branches_of_runBranch (encodes_of_rows (fun _ => rfl) (fun _ => rfl) (fun _ => rfl) (by decide +kernel))
      (fun _ _ => iff_of_eq (Bool.not_eq_true' _)) fun _ _ => rfl
  case bcs | beq | bmi | bvs =>
    exact branches_of_runBranch (encodes_of_rows (fun _ => rfl) (fun _ => rfl) (fun _ => rfl) (by decide +kernel))
      (fun _ _ => Iff.rfl) fun _ _ => rfl

end Sys2Proof.Proofs
end

section
/-! # Proofs about the stack unit and the register transfers

A push is one bus write in page 1 at S (`push_accesses_page1`, `push_bytesStored`), a pop one bus read behind S (`pop_eq`). Any
number of pushes is an induction over the bytes, from the first on. PHA, PHP, PLA and PLP are one push or one pop each, and the
transfers are register instructions of Implied mode (`registerOp_of_runImplied`). -/

namespace Sys2Proof.Proofs

open Sys2Proof.Machine Sys2Proof.Claims Sys2Proof.Laws

/-! ## One push and one pop -/

theorem push_accesses_page1 (v : Byte) (s : State) :
    (push v s).accesses = s.accesses ++ [.write (page1 s.sp) v false] := by
  rw [push_accesses, stackAddress_eq_page1]

theorem push_bytesStored (v : Byte) (s : State) : BytesStored s (push v s) [(page1 s.sp, v)] :=
  bytesStored_push (bytesStored_nil s) v id rfl (by simp)

/-- Settles O33: a push is one bus write and a pop one bus read; S falls and rises modulo 256. -/
theorem pushAndPopMoveOneByte : Obligations.PushAndPopMoveOneByte := by
  refine fun s v => ⟨?push, ?pop⟩
  case push =>
    have hsp : (s.sp - 1).toNat = (s.sp.toNat + 255) % 256 := by bv_omega
    exact ⟨push_accesses_page1 v s, hsp, push_bytesStored v s, rfl, rfl, rfl, rfl, rfl, ⟨rfl, rfl, rfl, rfl, rfl⟩⟩
  case pop =>
    have hsp : byte (s.sp.toNat + 1) = s.sp + 1 := by
      rw [byte]
      bv_omega
    rw [hsp, pop_eq]
    exact ⟨rfl, rfl, rfl⟩

/-! ## Any number of pushes -/

/-- The state after the bytes of a list are pushed, the first one first. -/
def pushes (l : List Byte) (s : State) : State := l.foldl (fun u v => push v u) s

@[simp] theorem pushes_nil (s : State) : pushes [] s = s := rfl

@[simp] theorem pushes_cons (v : Byte) (l : List Byte) (s : State) : pushes (v :: l) s = pushes l (push v s) := rfl

/-- S after the first push, then lowered by `k`, is S lowered by `k + 1`. -/
theorem sub_one_sub_ofNat (sp : Byte) (k : Nat) : sp - 1 - BitVec.ofNat 8 k = sp - BitVec.ofNat 8 (k + 1) := by
  bv_omega

theorem pushes_sp (l : List Byte) (s : State) : (pushes l s).sp = s.sp - BitVec.ofNat 8 l.length := by
  induction l generalizing s with
  | nil => simp
  | cons v l ih => rw [pushes_cons, ih, push_sp, sub_one_sub_ofNat, List.length_cons]

theorem pushes_accesses (l : List Byte) (s : State) : (pushes l s).accesses =
    s.accesses ++ l.mapIdx (fun k v => .write (page1 (s.sp - BitVec.ofNat 8 k)) v false) := by
  induction l generalizing s with
  | nil => simp
  | cons v l ih =>
    simp only [pushes_cons, ih, push_accesses_page1, push_sp, sub_one_sub_ofNat, List.mapIdx_cons]
    simp

theorem ne_page1_of_outside {a : Word} (h : a.toNat < 256 ∨ 512 ≤ a.toNat) (sp : Byte) : a ≠ page1 sp := by
  obtain hlow | hhigh := h
  · rintro rfl
    rw [← stackAddress_eq_page1, stackAddress_toNat] at hlow
    omega
  · exact ne_page1_of_le hhigh sp

theorem pushes_peek_outside {a : Word} (h : a.toNat < 256 ∨ 512 ≤ a.toNat) (l : List Byte) (s : State) :
    (pushes l s).peek a = s.peek a := by
  induction l generalizing s with
  | nil => rfl
  | cons v l ih => rw [pushes_cons, ih, push_peek_of_ne_page1 (ne_page1_of_outside h s.sp)]

/-- Settles O34, by induction over the bytes pushed; the pop wraps S before it reads. -/
theorem pushesStayInPageOne : Obligations.PushesStayInPageOne := by
  refine fun s l => ⟨pushes_sp l s, pushes_accesses l s, fun a ha => pushes_peek_outside ha l s, fun hsp => ?_⟩
  rw [pop_eq, hsp]
  exact ⟨rfl, rfl⟩

/-! ## Push and pull of A and of the flags -/

/-- The image that PHP pushes, as the byte of the sum of its bits (R112). -/
theorem pImage_true_eq_byte (p : Status) : pImage true p = byte (128 * bit p.n + 64 * bit p.v + 32 + 16 + 8 * bit p.d +
    4 * bit p.i + 2 * bit p.z + bit p.c) := by
  have himage : pImage true p = byte (pImage true p).toNat := by
    rw [byte, BitVec.ofNat_toNat, BitVec.setWidth_eq]
  exact himage.trans (congrArg byte (pImage_toNat true p))

/-- Settles O35: both instructions are one push, of A or of the image of P. -/
theorem pushesOfAAndStatus : Obligations.PushesOfAAndStatus := by
  refine ⟨encodesImplied_of_row rfl rfl rfl rfl, encodesImplied_of_row rfl rfl rfl rfl, fun s i v hi => ?_⟩
  have hrun : exec i s = .next (push v { s with cycles := 3 }) := by
    obtain ⟨rfl, rfl⟩ | ⟨rfl, rfl⟩ := hi
    · rfl
    · exact congrArg (fun v => Host.Outcome.next (push v { s with cycles := 3 })) (pImage_true_eq_byte s.p)
  exact ⟨_, hrun, push_accesses_page1 v { s with cycles := 3 }, push_bytesStored v { s with cycles := 3 },
    rfl, rfl, rfl, rfl, rfl, rfl, ⟨rfl, rfl, rfl, rfl, rfl⟩, rfl⟩

/-- Settles O36: both instructions are one pop; the flags PLP loads are the bits of the byte. -/
theorem pullsOfAAndStatus : Obligations.PullsOfAAndStatus := by
  refine ⟨encodesImplied_of_row rfl rfl rfl rfl, encodesImplied_of_row rfl rfl rfl rfl, fun s => ⟨?pla, ?plp⟩⟩
  case pla =>
    have hrun : exec .pla s = .next (pullA { s with cycles := 4 }) := rfl
    refine ⟨_, hrun, ?_⟩
    rw [pullA, pop_eq, setNZ_eq_nz]
    exact ⟨rfl, rfl, rfl⟩
  case plp =>
    have hrun : exec .plp s = .next (pullP { s with cycles := 4 }) := rfl
    refine ⟨_, hrun, ?_⟩
    rw [pullP, pop_eq]
    exact ⟨rfl, rfl, rfl⟩

/-! ## Transfers -/

/-- An instruction that writes the value of one register to another with its N and Z has that as its whole effect (R14). -/
theorem registerOp_of_transfer {i : Instr} {opcode : Byte} (write : Byte × Status → State → State) (value : State → Byte)
    (henc : EncodesImplied i opcode 2)
    (hexec : ∀ s, exec i s = runImplied i (fun t => write (value t, setNZ (value t) t.p) t) s)
    (hcycles : ∀ s, write (value { s with cycles := 2 }, nz (value { s with cycles := 2 }) s.p) { s with cycles := 2 } =
      { write (value s, nz (value s) s.p) s with cycles := 2 }) :
    RegisterOp i opcode fun s => write (value s, nz (value s) s.p) s := by
  refine registerOp_of_runImplied henc hexec fun s => ?_
  rw [setNZ_eq_nz, hcycles]

/-- Settles O37: five of the instructions are transfers with N and Z, and TXS writes S alone. -/
theorem transfersCopyOneRegister : Obligations.TransfersCopyOneRegister := by
  refine ⟨?tax, ?tay, ?tsx, ?txa, ?txs, ?tya⟩
  case tax =>
    exact registerOp_of_transfer setX State.a (encodesImplied_of_row rfl rfl rfl rfl) (fun _ => rfl) fun _ => rfl
  case tay =>
    exact registerOp_of_transfer setY State.a (encodesImplied_of_row rfl rfl rfl rfl) (fun _ => rfl) fun _ => rfl
  case tsx =>
    exact registerOp_of_transfer setX State.sp (encodesImplied_of_row rfl rfl rfl rfl) (fun _ => rfl) fun _ => rfl
  case txa =>
    exact registerOp_of_transfer setA State.x (encodesImplied_of_row rfl rfl rfl rfl) (fun _ => rfl) fun _ => rfl
  case txs =>
    exact registerOp_of_runImplied (f := fun t => { t with sp := t.x }) (encodesImplied_of_row rfl rfl rfl rfl)
      (fun _ => rfl) fun _ => rfl
  case tya =>
    exact registerOp_of_transfer setA State.y (encodesImplied_of_row rfl rfl rfl rfl) (fun _ => rfl) fun _ => rfl

end Sys2Proof.Proofs
end

section
/-! # Proofs about BIT, NOP, BRK and the unmapped placeholder

BIT is a read-class instruction (`runsOnOperand_of_runRead`), NOP a register instruction of Implied mode, and BRK the interrupt
entry behind its padding byte (`exec_brk`). The placeholder is what a byte without a row decodes to; the policy of R820, which is
open, tells where it leaves PC and what it costs. -/

namespace Sys2Proof.Proofs

open Sys2Proof.Machine Sys2Proof.Claims Sys2Proof.Laws

/-- The flags of BIT in numbers (R800); Z is that of `setNZ`. -/
theorem bitFlags_eq (a m : Byte) (p : Status) :
    bitFlags a m p =
      { p with z := decide ((a &&& m).toNat = 0), n := m.toNat.testBit 7, v := m.toNat.testBit 6 } := by
  have hz : (a &&& m == 0) = decide ((a &&& m).toNat = 0) := congrArg Status.z (setNZ_eq_nz (a &&& m) p)
  rw [bitFlags, hz]
  rfl

/-- Settles O39: a read-class instruction that changes the flags alone. -/
theorem bitTestsTheOperand : Obligations.BitTestsTheOperand := by
  refine ⟨?_, fun o s hw => ?_⟩
  · exact encodes_of_rows (fun _ => rfl) (fun _ => rfl) (fun _ => rfl) (by decide +kernel)
  · exact runsOnOperand_of_runRead (f := fun m u => onFlags (bitFlags u.a m) u) rfl hw rfl
      fun m _ _ => congrArg (fun p => onFlags (fun _ => p) _) (bitFlags_eq s.a m s.p)

/-- Settles O40: NOP has its row of the opcode table, and no effect. -/
theorem nopChangesNothing : Obligations.NopChangesNothing :=
  registerOp_of_runImplied (f := id) (encodesImplied_of_row rfl rfl rfl rfl) (fun _ => rfl) fun _ => rfl

/-- Settles O41: BRK has its row of the opcode table, and enters its interrupt as `exec_brk` says. -/
theorem brkEntersTheIrqBrkVector : Obligations.BrkEntersTheIrqBrkVector :=
  ⟨encodesImplied_of_row rfl rfl rfl rfl, exec_brk⟩

/-- A byte decodes to the placeholder when it is one of those R309 lists. -/
theorem decode_eq_unmapped_iff (b : Byte) : decode [b] = .ok (.unmapped b, []) ↔ b ∈ unmappedBytes := by
  constructor
  · intro h
    obtain ⟨hwf, -⟩ := decodingIsTotalAndGivesOnlyInstructions.1 _ _ _ h
    exact List.contains_iff_mem.1 hwf
  · intro h
    exact everyInstructionDecodesFromItsBytes (.unmapped b) [] (List.contains_iff_mem.2 h)

theorem exec_unmapped {b : Byte} (hb : b ∈ unmappedBytes) (s : State) :
    exec (.unmapped b) s = .next { s with
      pc := unmappedPc (s.pc - 1), cycles := unmappedCycles, event := some (.unmapped b (s.pc - 1)) } := by
  have hwf : (Instr.unmapped b).wellFormed = true := List.contains_iff_mem.2 hb
  rw [exec, execUnmapped, if_pos hwf]
  rfl

/-- Settles O42: the bytes are finite data, and the policy has two cases. -/
theorem unmappedByteHasNoEffectButItsEvent : Obligations.UnmappedByteHasNoEffectButItsEvent := by
  refine ⟨rfl, by decide +kernel, decode_eq_unmapped_iff, fun b s hb => ⟨_, exec_unmapped hb s, rfl, ?_⟩⟩
  rw [unmappedPc, unmappedCycles]
  cases Config.unmappedPolicy with
  | skip => exact ⟨sub_add_cancel .., rfl⟩
  | hold => exact ⟨rfl, rfl⟩

end Sys2Proof.Proofs
end

section
/-! # Proofs about interrupts

An interrupt entry is three pushes and the read of a vector. `interruptEntry_bytesStored` says what is on the stack after it, and
`loadVector_eq` what the read of a vector gives, for RESET too. That RTI undoes an entry is then the statement on RTI, read with
what the entry stored. -/

namespace Sys2Proof.Proofs

open Sys2Proof.Machine Sys2Proof.Claims Sys2Proof.Laws

/-! ## The interrupt entry -/

/-- PC from a vector: the word of what the bus answers, low byte first, and the two reads (R901). -/
theorem loadVector_eq (vec : Word) (s : State) :
    let l := busValue vec s
    let h := busValue (vec + 1) (busRead vec s).2
    loadVector vec s =
      { s with pc := word l h, accesses := s.accesses ++ [.read vec l false, .read (vec + 1) h false] } := by
  obtain ⟨hword, hframe, hacc⟩ := readWord_eq rfl rfl (lowAt := vec) (highAt := vec + 1) s
  dsimp only
  rw [← hword, ← hacc, loadVector]
  exact congrArg (fun u : State => { u with pc := (readWord vec (vec + 1) s).1 }) hframe

/-- The state in which an interrupt entry reads its vector: three bytes pushed, I set (R904). -/
def entryPushed (b : Bool) (s : State) : State :=
  { push (pImage b s.p) (returnPushed s) with p := { s.p with i := true } }

theorem entryPushed_accesses (b : Bool) (s : State) :
    (entryPushed b s).accesses = s.accesses ++ [.write (page1 s.sp) (hi s.pc) false,
      .write (page1 (s.sp - 1)) (lo s.pc) false, .write (page1 (s.sp - 2)) (pImage b s.p) false] := by
  rw [← returnPushed_sp]
  simp [entryPushed, returnPushed, stackAddress_eq_page1, highByte_eq_hi, lowByte_eq_lo]

/-- The three bytes of an entry (R904): S comes back to none of their addresses. -/
theorem interruptEntry_bytesStored (vec : Word) (b : Bool) (s : State) :
    BytesStored s (interruptEntry vec b s)
      [(page1 s.sp, hi s.pc), (page1 (s.sp - 1), lo s.pc), (page1 (s.sp - 2), pImage b s.p)] := by
  rw [← highByte_eq_hi, ← lowByte_eq_lo, ← returnPushed_sp]
  have hlow : page1 (s.sp - 1) ∉ [page1 s.sp] := by
    have hne : s.sp - 1 ≠ s.sp := by bv_omega
    simpa using page1_injective.ne hne
  have himage : page1 (returnPushed s).sp ∉ [page1 s.sp, page1 (s.sp - 1)] := by
    have hne : s.sp - 2 ≠ s.sp := by bv_omega
    have hne' : s.sp - 2 ≠ s.sp - 1 := by bv_omega
    rw [returnPushed_sp]
    simpa using ⟨page1_injective.ne hne, page1_injective.ne hne'⟩
  have h1 := bytesStored_push (bytesStored_nil s) (highByte s.pc) id rfl (by simp)
  have h2 := bytesStored_push h1 (lowByte s.pc) push_wf rfl hlow
  exact bytesStored_push h2 (pImage b s.p) (fun hm => push_wf (push_wf hm)) rfl himage

/-- No byte above page 1 is one of those an entry pushes. -/
theorem entryPushed_peek_above {a : Word} (ha : 512 ≤ a.toNat) (b : Bool) (s : State) :
    (entryPushed b s).peek a = s.peek a :=
  calc (entryPushed b s).peek a
    _ = (interruptEntry 0 b s).peek a := (interruptEntry_sameMemory 0 b s a).symm
    _ = s.peek a := interruptEntry_peek_other (ne_page1_of_le ha _) (ne_page1_of_le ha _) (ne_page1_of_le ha _)

/-- Settles O43: three pushes, then a vector, whose bytes the pushes leave alone where it lies above page 1. -/
theorem interruptEntryPushesAndVectors : Obligations.InterruptEntryPushesAndVectors := by
  intro vec b s
  have hvector : interruptEntry vec b s = _ := loadVector_eq vec (entryPushed b s)
  have hpc := congrArg State.pc hvector
  have hacc := congrArg State.accesses hvector
  rw [entryPushed_accesses, List.append_assoc] at hacc
  have hcycles : (interruptEntry vec b s).cycles = s.cycles := by simp [interruptEntry_eq, returnPushed]
  obtain ⟨ha, hx, hy, hp, hreset, hplain, hpast, hrequests, hevent⟩ := interruptEntry_frame vec b s
  refine ⟨_, _, hacc, interruptEntry_bytesStored vec b s, hpc, interruptEntry_sp vec b s, hp, ha, hx, hy,
    ⟨hreset, hplain, hpast, hrequests, hevent⟩, hcycles,
    fun hlow hhigh => ⟨fun v hv => ?_, fun v hv => ?_⟩⟩
  · exact busValue_of_peek ((entryPushed_peek_above hlow b s).trans hv)
  · have hnext : 512 ≤ (vec + 1).toNat := by bv_omega
    exact busValue_of_peek ((entryPushed_peek_above hnext b s).trans hv)

/-! ## The dispatches -/

/-- Settles O46: PC from the vector (`loadVector_eq`), and nothing else but `reset_done`. -/
theorem resetLoadsPcAlone : Obligations.ResetLoadsPcAlone := by
  intro s
  have hvector := loadVector_eq resetVector s
  refine ⟨_, rfl, ?_, rfl, congrArg State.accesses hvector⟩
  rw [hvector]
  rfl

/-- Settles O44: by whether RESET has been done. -/
theorem nmiIsTakenWhateverI : Obligations.NmiIsTakenWhateverI := by
  refine fun s => ⟨fun hreset => ?_, fun hreset => ?_⟩
  · rw [dispatchInterrupt, dispatchNmi, if_pos hreset]
    rfl
  · rw [dispatchInterrupt, dispatchNmi, if_neg (Bool.eq_false_iff.1 hreset)]

/-- Settles O45: by I; a suppressed IRQ leaves the boundary without a request. -/
theorem irqIsTakenOrSuppressed : Obligations.IrqIsTakenOrSuppressed := by
  refine fun s hreset => ⟨dispatchInterrupt_irq_of_enabled hreset, fun hi => ?_⟩
  refine ⟨dispatchInterrupt_irq_of_disabled hreset hi, fun rest hreq => ?_⟩
  rw [step_of_request hreq]
  exact dispatchInterrupt_irq_of_disabled hreset hi

/-! ## One request for each boundary -/

theorem dispatchInterrupt_requests {k : Interrupt} {s t : State} (h : dispatchInterrupt k s = .next t) :
    t.requests = s.requests := by
  obtain ⟨vec, rfl⟩ | rfl | rfl := dispatchInterrupt_next h
  · simp
  · simp
  · rfl

theorem stepInstr_requests {s t : State} (h : stepInstr s = .next t) : t.requests = s.requests := by
  obtain ⟨-, hrequests, -⟩ := hiddenStateAndPcFrame _ _ _ (stepInstr_next h)
  rw [hrequests, fetchInstr_state]
  rfl

/-- Settles O47: neither a dispatch nor an instruction touches the list, so the transaction leaves it as it starts with it. -/
theorem oneRequestPerBoundary : Obligations.OneRequestPerBoundary := by
  refine fun s => ⟨fun k rest hreq => step_of_request hreq, fun t hstep => ⟨fun k rest hreq => ?_, fun hreq => ?_⟩⟩
  · rw [step_of_request hreq] at hstep
    exact dispatchInterrupt_requests hstep
  · rw [step_of_noRequest hreq] at hstep
    exact stepInstr_requests hstep

/-! ## The return from an interrupt -/

/-- What is still on the stack of an entry, as RTI finds it. -/
theorem peek_of_entryKept {vec : Word} {b : Bool} {s t : State} (hm : Memory.wf s.mem = true)
    (hplain : ∀ k, k < 3 → s.isPlain (page1 (s.sp - BitVec.ofNat 8 k)) = true)
    (hkept : ∀ k, k < 3 → t.peek (page1 (s.sp - BitVec.ofNat 8 k)) =
      (interruptEntry vec b s).peek (page1 (s.sp - BitVec.ofNat 8 k))) :
    t.peek (page1 s.sp) = some (hi s.pc) ∧ t.peek (page1 (s.sp - 1)) = some (lo s.pc) ∧
      t.peek (page1 (s.sp - 2)) = some (pImage b s.p) := by
  obtain ⟨-, hstored⟩ := interruptEntry_bytesStored vec b s
  have hsp : s.sp - BitVec.ofNat 8 0 = s.sp := sub_zero _
  have hplain0 := hplain 0 (by decide)
  have hkept0 := hkept 0 (by decide)
  rw [hsp] at hplain0 hkept0
  exact ⟨hkept0.trans (hstored hm (page1 s.sp, _) (.head _) hplain0),
    (hkept 1 (by decide)).trans (hstored hm (page1 (s.sp - 1), _) (.tail _ (.head _)) (hplain 1 (by decide))),
    (hkept 2 (by decide)).trans (hstored hm (page1 (s.sp - 2), _) (.tail _ (.tail _ (.head _))) (hplain 2 (by decide)))⟩

/-- Settles O48: the bytes that RTI pops (O31) are those that the entry stored, in the opposite order. -/
theorem rtiUndoesInterruptEntry : Obligations.RtiUndoesInterruptEntry := by
  intro vec b s t hm hplain hsp hkept
  obtain ⟨hhigh, hlow, himage⟩ := peek_of_entryKept hm hplain hkept
  have hsp1 : t.sp + 1 = s.sp - 2 := by rw [hsp]; bv_omega
  have hsp2 : t.sp + 2 = s.sp - 1 := by rw [hsp]; bv_omega
  have hsp3 : t.sp + 3 = s.sp := by rw [hsp]; exact sub_add_cancel ..
  obtain ⟨-, hreturn⟩ := rtiRestoresFlagsAndPc
  obtain ⟨r, hrti, hr, -, -⟩ := hreturn t
  rw [hsp1, hsp2, hsp3, busValue_of_peek himage, busValue_of_peek (by rwa [busRead_peek]),
    busValue_of_peek (by rwa [busRead_peek, busRead_peek]), word_lo_hi] at hr
  exact ⟨r, hrti, by rw [hr], by rw [hr]; exact pLoad_pImage b s.p, by rw [hr]⟩

end Sys2Proof.Proofs
end

section
/-! # Proofs about the cycle count

The count of an instruction is said once, by the shape of the instruction (`exec_cycles`); what a page crossing costs is read off
it. That no instruction depends on the count before it comes from the resolve part of a step, which sets the count anew
(`prepare_of_cycles`). -/

namespace Sys2Proof.Proofs

open Sys2Proof.Machine Sys2Proof.Claims Sys2Proof.Laws

/-! ## The cycle count by the shape of instruction -/

section

variable {i : Instr} {o : Operand} {s t : State}

theorem runRead_cycles {f : Byte → State → State} (h : runRead i o f s = .next t)
    (hf : ∀ m u, (f m u).cycles = u.cycles) :
    t.cycles = i.baseCycles + pagePenalty i (resolve o s).crossed := by
  obtain ⟨m, u, hr, rfl⟩ := runRead_next h
  obtain ⟨⟨d, w⟩, hp, hl⟩ := Option.bind_eq_some_iff.1 hr
  rw [hf, load_cycles hl, prepare_cycles hp]

theorem runStore_cycles {v : Byte} (h : runStore i o v s = .next t) :
    t.cycles = i.baseCycles + pagePenalty i (resolve o s).crossed := by
  obtain ⟨d, u, hp, hs⟩ := runStore_next h
  rw [store_cycles hs, prepare_cycles hp]

theorem runModify_cycles {f : Byte → Status → Byte × Status} (h : runModify i o f s = .next t) :
    t.cycles = i.baseCycles + pagePenalty i (resolve o s).crossed := by
  obtain ⟨d, u, v, w, t', hp, hl, hs, rfl⟩ := runModify_next h
  exact (store_cycles hs).trans ((load_cycles hl).trans (prepare_cycles hp))

theorem runJump_cycles {f : Word → State → State} (h : runJump i o f s = .next t)
    (hf : ∀ ea u, (f ea u).cycles = u.cycles) :
    t.cycles = i.baseCycles + pagePenalty i (resolve o s).crossed := by
  obtain ⟨d, u, ea, hp, -, rfl⟩ := runJump_next h
  rw [hf, prepare_cycles hp]

theorem runImplied_cycles {f : State → State} (h : runImplied i f s = .next t)
    (hf : ∀ u, (f u).cycles = u.cycles) : t.cycles = i.baseCycles := by
  obtain rfl := runImplied_next h
  exact hf _

/-- What a branch costs on top of the resolve part of its step: one cycle when it is taken, one more to another page (R704). -/
theorem takeBranch_cycles (c : Bool) (d : Byte) (s : State) :
    (takeBranch c d s).cycles = s.cycles + bit c +
      (if c = true ∧ (takeBranch c d s).pc.toNat / 256 ≠ s.pc.toNat / 256 then 1 else 0) := by
  cases c with
  | false => rfl
  | true => simp [takeBranch, pageCrossed_eq, bit]

theorem runBranch_cycles {c : Bool} (h : runBranch i o c s = .next t) :
    t.cycles = i.baseCycles + pagePenalty i (resolve o s).crossed + bit c +
      (if c = true ∧ t.pc.toNat / 256 ≠ s.pc.toNat / 256 then 1 else 0) := by
  obtain ⟨d, u, b, hp, -, rfl⟩ := runBranch_next h
  have hpc : u.pc = s.pc := by rw [prepare_state hp]
  rw [takeBranch_cycles, prepare_cycles hp, hpc]

end

/-- The cycle count of an instruction that completes (R1010). -/
theorem exec_cycles {i : Instr} {s t : State} (h : exec i s = .next t) (hi : ∀ b, i ≠ .unmapped b) :
    t.cycles = i.baseCycles + pagePenalty i (resolve i.operand s).crossed + bit (branchTaken i s) +
      (if branchTaken i s = true ∧ t.pc.toNat / 256 ≠ s.pc.toNat / 256 then 1 else 0) := by
  unfold exec at h
  cases i
  case adc | sbc | and | eor | ora | lda | ldx | ldy | cmp | cpx | cpy | bit =>
    exact runRead_cycles h fun _ _ => rfl
  case sta | stx | sty => exact runStore_cycles h
  case asl | lsr | rol | ror | inc | dec => exact runModify_cycles h
  case jmp | jsr => exact runJump_cycles h fun _ _ => rfl
  case bcc | bcs | beq | bmi | bne | bpl | bvc | bvs => exact runBranch_cycles h
  case unmapped b => exact absurd rfl (hi b)
  all_goals exact runImplied_cycles h fun _ => rfl

/-- An instruction with a row costs two cycles or more (R305). -/
theorem two_le_baseCycles {i : Instr} (hw : i.wellFormed = true) (hi : ∀ b, i ≠ .unmapped b) : 2 ≤ i.baseCycles := by
  obtain ⟨b, hb, -⟩ | ⟨op, r, hop, hr⟩ := wellFormed_row hw
  · exact absurd hb (hi b)
  · obtain ⟨hmem, -, -⟩ := rowOf_some hr
    simp only [Instr.baseCycles, Instr.row, hop, hr]
    exact (by decide +kernel : ∀ r ∈ opcodeTable, 2 ≤ r.cycles) r hmem

theorem exec_wellFormed {i : Instr} {s t : State} (h : exec i s = .next t) : i.wellFormed = true := by
  cases hw : i.wellFormed with
  | true => rfl
  | false => rw [illFormedTermsAreRefused i s hw] at h; cases h

/-- Settles O57: the sum by the shape of the instruction, its bounds from the rows of the opcode table. -/
theorem cycleCountOfAnInstruction : Obligations.CycleCountOfAnInstruction := by
  intro i s t h hi
  have hsum := exec_cycles h hi
  have hbase := two_le_baseCycles (exec_wellFormed h) hi
  refine ⟨?_, by omega, exec_cycles_le_seven h⟩
  rw [hsum, pagePenalty]
  simp only [Bool.and_eq_true]

/-! ## What a page crossing costs -/

theorem isReadClass_iff_isOneOf (i : Instr) : isReadClass i = true ↔ IsOneOf i readOps := by
  refine ⟨isReadClass_isOneOf, fun h => ?_⟩
  cases i
  case adc | and | cmp | eor | lda | ora | sbc | ldx | ldy | bit | cpx | cpy => rfl
  all_goals simp [Instr.op, readOps] at h

/-- Whether an instruction is read-class is a matter of its operation (R420). -/
theorem isReadClass_congr {i i' : Instr} (h : i'.op = i.op) : isReadClass i' = isReadClass i := by
  rw [Bool.eq_iff_iff, isReadClass_iff_isOneOf, isReadClass_iff_isOneOf, IsOneOf, h]

theorem baseCycles_congr {i i' : Instr} (hop : i'.op = i.op) (hmode : i'.operand.mode = i.operand.mode) :
    i'.baseCycles = i.baseCycles := by
  simp only [Instr.baseCycles, Instr.row, hop, hmode]

/-- A branch has the mode Relative alone (R704). -/
theorem branchTaken_of_not_relative {i : Instr} {s : State} (hw : i.wellFormed = true)
    (hmode : i.operand.mode ≠ .relative) : branchTaken i s = false := by
  cases i
  case bcc | bcs | beq | bmi | bne | bpl | bvc | bvs =>
    exact absurd (List.mem_singleton.1 (List.contains_iff_mem.1 hw)) hmode
  all_goals rfl

/-- In an indexed absolute mode the count is the base count and the page penalty. -/
theorem exec_cycles_indexedAbsolute {i : Instr} {s t : State} (h : exec i s = .next t)
    (hmode : i.operand.mode ∈ [.absoluteX, .absoluteY]) :
    t.cycles = i.baseCycles + pagePenalty i (resolve i.operand s).crossed := by
  have hi : ∀ b, i ≠ .unmapped b := by
    rintro b rfl
    simp [Instr.operand, Operand.mode] at hmode
  have hrel : i.operand.mode ≠ .relative := by
    intro hrel
    simp [hrel] at hmode
  rw [exec_cycles h hi, branchTaken_of_not_relative (exec_wellFormed h) hrel]
  rfl

/-- Settles O59: the two runs share the base count, and a store is not read-class. -/
theorem crossingCostsReadsOneCycleAndStoresNone : Obligations.CrossingCostsReadsOneCycleAndStoresNone := by
  intro i i' s s' t t' h h' hop hmode hindexed hcrossed hnot
  have hcycles := exec_cycles_indexedAbsolute h hindexed
  have hcycles' := exec_cycles_indexedAbsolute h' (hmode ▸ hindexed)
  rw [hcrossed] at hcycles
  rw [hnot, baseCycles_congr hop hmode] at hcycles'
  refine ⟨fun hr => ?_, fun hstore => ?_⟩
  · rw [hcycles, hcycles', pagePenalty, pagePenalty, hr]
    rfl
  · have hr : isReadClass i = false := by
      cases i
      case sta | stx | sty => rfl
      all_goals simp [Instr.op] at hstore
    rw [hcycles, hcycles', pagePenalty_of_not_readClass _ hr]
    rfl

/-! ## The count before an instruction -/

/-- The resolve part of a step sets the count anew (R320). -/
theorem prepare_of_cycles (i : Instr) (o : Operand) (s : State) (n : Nat) :
    prepare i o { s with cycles := n } = prepare i o s := by
  cases o <;> rfl

/-- Settles O58: every shape counts its cycles from the row of the instruction. -/
theorem noInstructionReadsTheCycleCount : Obligations.NoInstructionReadsTheCycleCount := by
  intro i s n
  unfold exec
  cases i
  case adc o | sbc o | and o | eor o | ora o | lda o | ldx o | ldy o | cmp o | cpx o | cpy o | bit o =>
    exact congrArg (fun q => completed ((Option.bind q _).map _)) (prepare_of_cycles _ o s n)
  case sta o | stx o | sty o | asl o | lsr o | rol o | ror o | inc o | dec o | jmp o | jsr o =>
    exact congrArg (fun q => completed (Option.bind q _)) (prepare_of_cycles _ o s n)
  case bcc o | bcs o | beq o | bmi o | bne o | bpl o | bvc o | bvs o =>
    exact congrArg (fun q => completed (Option.bind q _)) (prepare_of_cycles _ o s n)
  all_goals rfl

end Sys2Proof.Proofs
end

section
/-! # Proofs about runs

The end of a run is an induction over its fuel (`runUntil_ended`). What it gives is said from any number of steps on, and from a
first state that may itself be clean (`EndsAfter`), so that it can be put behind one more transaction. -/

namespace Sys2Proof.Proofs

open Sys2Proof.Machine Sys2Proof.Claims Sys2Proof.Laws

theorem run_succ {s u : State} (h : step s = .next u) (k : Nat) :
    Sys2Proof.core.run (k + 1) s = Sys2Proof.core.run k u := by
  have hcore : Sys2Proof.core.step s = .next u := h
  simp only [Host.Core.run, hcore]

/-- One transaction adds to the steps done as it counts among the transactions of a run. -/
theorem add_stepsAmong_succ {s u : State} (h : step s = .next u) (d k : Nat) :
    d + stepsAmong (k + 1) s = Safety.countStep s d + stepsAmong k u := by
  simp only [stepsAmong, h]
  match hreq : s.requests with
  | some _ :: _ => rw [countStep_request d hreq]; simp
  | none :: _ => rw [countStep_none d hreq]; simp [Nat.add_assoc]
  | [] => rw [countStep_nil d hreq]; simp [Nat.add_assoc]

/-- A run of `m` transactions from `s`, after `d` steps, that ends in `t` and not before; every state in it is clean, the first
one if it was to begin with. -/
structure EndsAfter (e : State → Nat → Bool) (d m : Nat) (s t : State) : Prop where
  run : Sys2Proof.core.run m s = .next t
  ended : e t (d + stepsAmong m s) = true
  clean : 0 < m ∨ s.event = none → t.event = none
  before : ∀ k, k < m → ∃ u : State, Sys2Proof.core.run k s = .next u ∧ e u (d + stepsAmong k s) = false ∧
    (0 < k ∨ s.event = none → u.event = none)

theorem endsAfter_zero {e : State → Nat → Bool} {d : Nat} {s : State} (h : e s d = true) : EndsAfter e d 0 s s where
  run := rfl
  ended := h
  clean := fun hs => hs.resolve_left (Nat.lt_irrefl 0)
  before := nofun

/-- One clean transaction before the end. -/
theorem endsAfter_succ {e : State → Nat → Bool} {d m : Nat} {s u t : State} (hnot : e s d = false)
    (hstep : step s = .next u) (hclean : u.event = none) (h : EndsAfter e (Safety.countStep s d) m u t) :
    EndsAfter e d (m + 1) s t where
  run := (run_succ hstep m).trans h.run
  ended := by rw [add_stepsAmong_succ hstep]; exact h.ended
  clean := fun _ => h.clean (.inr hclean)
  before := by
    intro k hk
    cases k with
    | zero => exact ⟨s, rfl, hnot, fun hs => hs.resolve_left (Nat.lt_irrefl 0)⟩
    | succ k =>
      obtain ⟨v, hrun, hv, hev⟩ := h.before k (Nat.lt_of_succ_lt_succ hk)
      exact ⟨v, (run_succ hstep k).trans hrun, by rw [add_stepsAmong_succ hstep]; exact hv, fun _ => hev (.inr hclean)⟩

theorem runUntil_ended {e : State → Nat → Bool} {fuel d n : Nat} {s t : State}
    (h : Safety.runUntil e fuel d s = .ended t n) :
    ∃ m, m ≤ fuel ∧ n = d + stepsAmong m s ∧ EndsAfter e d m s t := by
  induction fuel generalizing d s with
  | zero =>
    obtain ⟨he, rfl, rfl⟩ := runUntil_ended_zero h
    exact ⟨0, Nat.le_refl 0, rfl, endsAfter_zero he⟩
  | succ fuel ih =>
    obtain ⟨he, rfl, rfl⟩ | ⟨u, hnot, hstep, hclean, hrest⟩ := runUntil_ended_succ h
    · exact ⟨0, Nat.zero_le _, rfl, endsAfter_zero he⟩
    · obtain ⟨m, hm, rfl, hends⟩ := ih hrest
      exact ⟨m + 1, Nat.succ_le_succ hm, (add_stepsAmong_succ hstep d m).symm,
        endsAfter_succ hnot hstep (Option.isNone_iff_eq_none.1 hclean) hends⟩

/-- Settles O60: the induction over the fuel, from a run that has done no step. -/
theorem endedRunsMeetTheirEndAndAreClean : Obligations.EndedRunsMeetTheirEndAndAreClean := by
  intro e fuel s t n h
  obtain ⟨m, hm, rfl, hrun, hended, hclean, hbefore⟩ := runUntil_ended h
  simp only [Nat.zero_add] at hended hbefore ⊢
  refine ⟨m, hm, hrun, rfl, hended, fun hpos => hclean (.inl hpos), fun k hk => ?_⟩
  obtain ⟨u, hu, hnot, hev⟩ := hbefore k hk
  exact ⟨u, hu, hnot, fun hpos => hev (.inl hpos)⟩

end Sys2Proof.Proofs
end
